-- ==== Sys2Proof/Word.lean ====
section
/-! DEFINITION. The widths of EC-DPB: one byte per host register address (spec/00_scope.md R6 ADDR_W and DATA_W,
spec/20_memory.md R50), the 17-bit host transaction word (spec/30_encoding.md R71), and the two formats an
instruction is encoded in (R70, R71). -/

namespace Sys2Proof

/-- A register byte, a register address, an opcode: all 8 bits wide (R6, R50, R70). -/
abbrev Byte := BitVec 8

/-- A host transaction word `{DIR[16], ADDR[15:8], DATA[7:0]}` (R71). -/
abbrev HostWord := BitVec 17

/-- The code of one instruction in one of the two formats: the command byte CMD8 (R70), or the host transaction
word HOSTACC (R71). -/
inductive Code where
  /-- CMD8: the data byte of a HostWrite to CMD (R70). -/
  | cmd8 (c : Byte)
  /-- HOSTACC: one host access (R71). -/
  | hostAcc (w : HostWord)
deriving DecidableEq, Repr

end Sys2Proof
end

