-- ==== Sys2Proof/Syntax.lean ====
section
/-! DEFINITION. The instructions: one constructor for each of the 19 rows of spec/opcode_table.json, that is the 16
commands of spec/30_encoding.md R72, ILLEGAL (spec/40_control.md R92), and the two host accesses of
spec/20_memory.md R51. No command has an operand field (R70, R74). -/

namespace Sys2Proof

inductive Instr where
  /-- R90 -/
  | nop
  /-- R91 -/
  | srst
  /-- R103 -/
  | frmCrc
  /-- R104 -/
  | frmCheck
  /-- R121 -/
  | calLoad
  /-- R125 -/
  | cmpTemp
  /-- R129 -/
  | cmpPres
  /-- R151 -/
  | lcdCmd
  /-- R152 -/
  | lcdData
  /-- R153 -/
  | dispOn
  /-- R154 -/
  | dispOff
  /-- R155 -/
  | cursOn
  /-- R156 -/
  | cursOff
  /-- R157 -/
  | blinkOn
  /-- R158 -/
  | blinkOff
  /-- R159 -/
  | setCursor
  /-- R51 HostWrite(addr, data) -/
  | hostWr (addr data : Byte)
  /-- R51 HostRead(addr) -/
  | hostRd (addr : Byte)
  /-- R92: any of the 240 command bytes `op` that R72 does not list -/
  | illegal (op : Byte)
deriving DecidableEq, Repr

end Sys2Proof
end

