-- ==== Sys2Proof/WellFormed.lean ====
section
/-! DEFINITION. Which terms of `Instr` are instructions: all of them, except that ILLEGAL stands only for a byte that
is no defined opcode (spec/30_encoding.md R72, R80). -/

namespace Sys2Proof

/-- The 16 defined opcodes of R72. -/
def definedOpcodes : List Byte :=
  [0x00#8, 0x0F#8, 0x10#8, 0x11#8, 0x20#8, 0x21#8, 0x22#8, 0x30#8, 0x31#8, 0x32#8, 0x33#8, 0x34#8, 0x35#8, 0x36#8,
   0x37#8, 0x38#8]

/-- The well-formed instructions. -/
def Instr.wf : Instr → Bool
  | .illegal op => !definedOpcodes.contains op
  | .hostWr _ _ | .hostRd _ => true
  | .nop | .srst | .frmCrc | .frmCheck | .calLoad | .cmpTemp | .cmpPres | .lcdCmd | .lcdData | .dispOn | .dispOff
  | .cursOn | .cursOff | .blinkOn | .blinkOff | .setCursor => true

end Sys2Proof
end

