-- ==== Sys2Proof/Decode.lean ====
section
/-! DEFINITION. Decoding and encoding: the command byte by the opcode map of spec/30_encoding.md R72, the host
transaction word by R71, an encoder from the same tables, and the assembler words of R82 and R83. -/

namespace Sys2Proof

/-- Why a code is no instruction. -/
inductive DecodeError where
  /-- A host transaction word with DIR = 0 and a DATA byte other than 0x00, which R71 does not define. -/
  | readWithData (data : Byte)
deriving DecidableEq, Repr

/-- The opcode map (R72). -/
def opcodeMap : List (Byte × Instr) :=
  [(0x00#8, .nop), (0x0F#8, .srst), (0x10#8, .frmCrc), (0x11#8, .frmCheck), (0x20#8, .calLoad), (0x21#8, .cmpTemp),
   (0x22#8, .cmpPres), (0x30#8, .lcdCmd), (0x31#8, .lcdData), (0x32#8, .dispOn), (0x33#8, .dispOff),
   (0x34#8, .cursOn), (0x35#8, .cursOff), (0x36#8, .blinkOn), (0x37#8, .blinkOff), (0x38#8, .setCursor)]

/-- R70, R72, R80: all eight bits are compared; a byte the map does not list is ILLEGAL. -/
def decodeCommand (c : Byte) : Instr :=
  match opcodeMap.find? (fun row => row.1 == c) with
  | some row => row.2
  | none => .illegal c

/-- R71: bit 16 is the direction, bits 15..8 the address, bits 7..0 the data byte (0x00 for a read). -/
def decodeHostWord (w : HostWord) : Except DecodeError Instr :=
  let addr := w.extractLsb' 8 8
  let data := w.extractLsb' 0 8
  if w.getLsbD 16 then .ok (.hostWr addr data)
  else if data = 0#8 then .ok (.hostRd addr)
  else .error (.readWithData data)

/-- The decoder of both formats. No mode bit and no length logic enters (R81). -/
def decode : Code → Except DecodeError Instr
  | .cmd8 c => .ok (decodeCommand c)
  | .hostAcc w => decodeHostWord w

/-- The host transaction word of HostWrite(a, d) (R71). -/
def writeWord (a d : Byte) : HostWord := (1#1 ++ a ++ d : BitVec (1 + 8 + 8))

/-- The host transaction word of HostRead(a) (R71). -/
def readWord (a : Byte) : HostWord := (0#1 ++ a ++ 0#8 : BitVec (1 + 8 + 8))

/-- The encoder, from the tables of R71 and R72. -/
def encode : Instr → Code
  | .nop => .cmd8 0x00#8
  | .srst => .cmd8 0x0F#8
  | .frmCrc => .cmd8 0x10#8
  | .frmCheck => .cmd8 0x11#8
  | .calLoad => .cmd8 0x20#8
  | .cmpTemp => .cmd8 0x21#8
  | .cmpPres => .cmd8 0x22#8
  | .lcdCmd => .cmd8 0x30#8
  | .lcdData => .cmd8 0x31#8
  | .dispOn => .cmd8 0x32#8
  | .dispOff => .cmd8 0x33#8
  | .cursOn => .cmd8 0x34#8
  | .cursOff => .cmd8 0x35#8
  | .blinkOn => .cmd8 0x36#8
  | .blinkOff => .cmd8 0x37#8
  | .setCursor => .cmd8 0x38#8
  | .hostWr a d => .hostAcc (writeWord a d)
  | .hostRd a => .hostAcc (readWord a)
  | .illegal op => .cmd8 op

/-- The address of CMD (R27). -/
def cmdAddr : Byte := 0x02#8

/-- The host access that carries an instruction's code: a command byte is the data of a HostWrite to CMD (R70, R82
`cmd`); a host transaction word is itself. -/
def hostWordOf : Code → HostWord
  | .cmd8 c => writeWord cmdAddr c
  | .hostAcc w => w

/-- The code that an opcode-table word of `nbits` bits holds: a CMD8 row has 8 bits, a HOSTACC row 17 (in whole bytes
24). -/
def codeOfTableWord (nbits w : Nat) : Code :=
  if nbits ≤ 8 then .cmd8 (BitVec.ofNat 8 w) else .hostAcc (BitVec.ofNat 17 w)

/-- The instruction the decoder reads from an opcode-table word; none where a bit above the format's width is set, or
where the decoder refuses. -/
def decodeTableWord (nbits w : Nat) : Option Instr :=
  if w < (if nbits ≤ 8 then 256 else 131072) then
    match decode (codeOfTableWord nbits w) with
    | .ok i => some i
    | .error _ => none
  else none

/-- R82 `rd ADDR`. -/
def asmRd (a : Byte) : HostWord := readWord a

/-- R82 `wr ADDR, BYTE`. -/
def asmWr (a d : Byte) : HostWord := writeWord a d

/-- R82 `cmd MNEMONIC`. -/
def asmCmd (i : Instr) : HostWord := hostWordOf (encode i)

/-- R83 `wr16 A, V`. An
address past 0xFF wraps to 0x00: the model's choice, R52 and R83 do not speak of it (log entry 14). -/
def asmWr16 (a : Byte) (v : BitVec 16) : List HostWord :=
  [asmWr a (v.extractLsb' 8 8), asmWr (a + 1#8) (v.extractLsb' 0 8)]

/-- R83 `wr24 A, V`. An
address past 0xFF wraps to 0x00: the model's choice, R52 and R83 do not speak of it (log entry 14). -/
def asmWr24 (a : Byte) (v : BitVec 24) : List HostWord :=
  [asmWr a (v.extractLsb' 16 8), asmWr (a + 1#8) (v.extractLsb' 8 8), asmWr (a + 2#8) (v.extractLsb' 0 8)]

/-- R83 `wr32 A, V`. An
address past 0xFF wraps to 0x00: the model's choice, R52 and R83 do not speak of it (log entry 14). -/
def asmWr32 (a : Byte) (v : BitVec 32) : List HostWord :=
  [asmWr a (v.extractLsb' 24 8), asmWr (a + 1#8) (v.extractLsb' 16 8), asmWr (a + 2#8) (v.extractLsb' 8 8),
   asmWr (a + 3#8) (v.extractLsb' 0 8)]

/-- R83 `rd16 A`, `rd24 A`, `rd32 A`: `n` reads in increasing address order. An
address past 0xFF wraps to 0x00: the model's choice, R52 and R83 do not speak of it (log entry 14). -/
def asmRdBytes (a : Byte) (n : Nat) : List HostWord :=
  (List.range n).map fun i => asmRd (a + BitVec.ofNat 8 i)

/-- R83 `clrerr`. -/
def asmClrerr : List HostWord := [asmWr 0x04#8 0x00#8]

/-- R83 `lcd_byte V`. -/
def asmLcdByte (v : Byte) : List HostWord := [asmWr 0x81#8 v, asmCmd .lcdCmd]

/-- R83 `lcd_char V`. -/
def asmLcdChar (v : Byte) : List HostWord := [asmWr 0x81#8 v, asmCmd .lcdData]

/-- R83 `cursor R, C`. -/
def asmCursor (r c : Byte) : List HostWord := [asmWr 0x82#8 r, asmWr 0x83#8 c, asmCmd .setCursor]

end Sys2Proof
end

