-- ==== Sys2Proof/Config.lean ====
section
/-! DEFINITION. The implementation parameters of EC-DPB with the values this hardware takes (spec/00_scope.md R6,
R12), and the one free value: the environment's answer to an output bus write (spec/20_memory.md R57). -/

namespace Sys2Proof

/-- The answer to one output bus write (R57). NACK stands for every way the external transport fails. -/
inductive Ack where
  | ack
  | nack
deriving DecidableEq, Repr

/-- The rounding of signed division in CMP: R6's `DIV_ROUND`. -/
inductive DivRound where
  /-- Toward minus infinity: the value this hardware takes (R6, R118). -/
  | floor
  /-- Toward zero: the alternative R6 lets a model expose. -/
  | trunc
deriving DecidableEq, Repr

/-- The rounding this hardware takes (R6 `DIV_ROUND`, R118). -/
def Config.divRound : DivRound := .floor

/-- R6 `CRC_POLY`. -/
def Config.crcPoly : Byte := 0x31#8

/-- R6 `CRC_INIT`. -/
def Config.crcInit : Byte := 0xFF#8

/-- R6 `FRAME_LEN`: the CRC covers the first six of the seven frame bytes. -/
def Config.crcLen : Nat := 6

/-- R6 `BUSY_MASK`, in frame byte 0. -/
def Config.busyMask : Byte := 0x80#8

/-- R6 `CAL_SENTINELS`. -/
def Config.calSentinels : List (BitVec 16) := [0x0000#16, 0xFFFF#16]

/-- R6 `LCD_ADDR`: the only device address the block writes on its output port (R50). Its width is not stated;
eight bits hold it (log entry 11). -/
def Config.lcdAddr : Byte := 0x4E#8

/-- R6 `COL_MAX`: the largest column SET_CURSOR accepts. -/
def Config.colMax : Byte := 0x27#8

/-- R6 `DCS_RESET`. -/
def Config.dcsReset : Byte := 0x04#8

/-- The free draw `ack` of R6 and R57: the answer the environment gives to the `n`-th output bus write that no
listed answer of `State.answers` covers; `none` is a write that is never answered (R198). It has no body: nothing
can be proved of its values (log entry 3). -/
opaque Config.ackDraw : Nat → Option Ack

end Sys2Proof
end

