-- ==== Sys2Proof/Machine/State.lean ====
section
/-! DEFINITION. The state of EC-DPB: every register of the map in spec/10_state.md R24, the output history of
spec/20_memory.md R56, and the model's own record of the host side (accesses still to come, answers given to reads,
answers to bus writes). Plain data. -/

namespace Sys2Proof.Machine

/-- How the host may access a register (R24). -/
inductive Access where
  /-- read and write -/
  | rw
  /-- read-only: host writes are ignored -/
  | ro
  /-- write-only: reads return 0x00 -/
  | wo
  /-- read; any host write clears the register to 0x00 -/
  | rc
deriving DecidableEq, Repr

/-- The registers of R24, one constructor per row of its table, but that UT and UPRAW and the like are one register
of several bytes, and FRAME0–6, CALB0–21, COEF and TXB0–3 are one row each. -/
inductive Reg where
  | ctrl | status | cmd | result | err
  | frame | fstat | crcCalc | rhRaw | tRaw | rhQ20 | tcQ20
  | calb | ut | upraw | coef | b5 | t10 | p | up
  | dcs | txdata | curRow | curCol | txb | txn
deriving DecidableEq, Repr

/-- One row of R24: the register, its first address, how many addresses it takes, and its access. -/
structure RegRow where
  reg : Reg
  base : Nat
  bytes : Nat
  access : Access
deriving DecidableEq, Repr

/-- The result codes of spec/60_exceptions.md R171, by name. -/
inductive ResultCode where
  | ok
  | busFailure
  /-- Reserved for the host's busy-poll; no command ends with it (R171). -/
  | timeout
  | crcError
  | invalidArgument
  | invalidCalibration
  | frameBusy
  | staleB5
  | divZero
  | illegalCmd
deriving DecidableEq, Repr

/-- One `BusWrite(device, byte)` event of the output port with the answer it received (R56). -/
structure BusEvent where
  device : Byte
  byte : Byte
  ack : Ack
deriving DecidableEq, Repr

/-- What comes to the block from outside, one thing at a time (R59, R191). -/
inductive HostEvent where
  /-- One host access, as its transaction word (R71). -/
  | access (w : HostWord)
  /-- The power-on reset, the other cause of reset (R191); no source defines its signal. -/
  | powerOnReset
deriving DecidableEq, Repr

/-- The whole state. The registers down to `txn` are R24's; `port` is R56's output history; the last five fields are
the model's own record of the host and of the environment of the output port. -/
structure State where
  /-- R25 -/
  ctrl : Byte
  /-- R26 -/
  status : Byte
  /-- R28 -/
  result : Byte
  /-- R29 -/
  err : Byte
  /-- R30: FRAME0–FRAME6 -/
  frame : Vector Byte 7
  /-- R31 -/
  fstat : Byte
  /-- R32 -/
  crcCalc : Byte
  /-- R33 -/
  rhRaw : BitVec 24
  /-- R33 -/
  tRaw : BitVec 24
  /-- R34 -/
  rhQ20 : BitVec 32
  /-- R34 -/
  tcQ20 : BitVec 32
  /-- R35: CALB0–CALB21 -/
  calb : Vector Byte 22
  /-- R36 -/
  ut : BitVec 16
  /-- R37 -/
  upraw : BitVec 24
  /-- R38: AC1 … MD, index 0..10 -/
  coef : Vector (BitVec 16) 11
  /-- R39 -/
  b5 : BitVec 32
  /-- R40 -/
  t10 : BitVec 32
  /-- R40 -/
  p : BitVec 32
  /-- R41 -/
  up : BitVec 24
  /-- R42 -/
  dcs : Byte
  /-- R43 -/
  txdata : Byte
  /-- R44 -/
  curRow : Byte
  /-- R44 -/
  curCol : Byte
  /-- R45: TXB0–TXB3 -/
  txb : Vector Byte 4
  /-- R46 -/
  txn : Byte
  /-- The output history, oldest event first (R56). -/
  port : List BusEvent
  /-- The model's own: what is still to come from outside, in order: host accesses (R59) and power-on resets (R191). -/
  pending : List HostEvent
  /-- The model's own: every HostRead answered so far, oldest first: its address and the byte returned (R51). -/
  reads : List (Byte × Byte)
  /-- The model's own: the environment's answers to the next output bus writes, in order; `none` is a write that is
  never answered (R57, R198). After the last listed answer the answers are the free draw `Config.ackDraw`. -/
  answers : List (Option Ack)
  /-- The model's own: how many answers have been taken from the free draw. -/
  draws : Nat
  /-- The model's own: the byte of an output bus write that is never answered; the block is stuck (R198). -/
  busWait : Option Byte
deriving DecidableEq, Repr

/-- Why the machine stops. -/
inductive Fault where
  /-- Raised by `step` alone, in a state whose last command waits for the answer to a bus write that never comes and
  which no power-on reset ends: R198 keeps that run as a stuck state, one with no successor. Safe: the hardware does
  not go on either. -/
  | busNeverAnswered
deriving DecidableEq, Repr

/-- What has no meaning. -/
inductive Refusal where
  /-- Raised by an arm of `exec` whose instruction has no meaning yet. Safe: nothing is claimed of it. -/
  | notModelled (mnemonic : String)
  /-- Raised by `step` on a transaction word with DIR = 0 and DATA other than 0x00, which R71 does not define. Safe:
  no host access is written so. -/
  | undefinedHostWord
deriving DecidableEq, Repr

/-- The state right after reset: spec/70_reset_and_hazards.md R190 for every register, an empty output history
(R56), and no access, answer or draw yet (log entries 1, 3 and 5). -/
def State.reset : State where
  ctrl := 0x01#8
  status := 0x00#8
  result := 0x00#8
  err := 0x00#8
  frame := #v[0#8, 0#8, 0#8, 0#8, 0#8, 0#8, 0#8]
  fstat := 0x00#8
  crcCalc := 0x00#8
  rhRaw := 0#24
  tRaw := 0#24
  rhQ20 := 0#32
  tcQ20 := 0#32
  calb := #v[0#8, 0#8, 0#8, 0#8, 0#8, 0#8, 0#8, 0#8, 0#8, 0#8, 0#8, 0#8, 0#8, 0#8, 0#8, 0#8, 0#8, 0#8, 0#8, 0#8, 0#8,
    0#8]
  ut := 0#16
  upraw := 0#24
  coef := #v[0#16, 0#16, 0#16, 0#16, 0#16, 0#16, 0#16, 0#16, 0#16, 0#16, 0#16]
  b5 := 0#32
  t10 := 0#32
  p := 0#32
  up := 0#24
  dcs := Config.dcsReset
  txdata := 0x00#8
  curRow := 0x00#8
  curCol := 0x00#8
  txb := #v[0#8, 0#8, 0#8, 0#8]
  txn := 0x00#8
  port := []
  pending := []
  reads := []
  answers := []
  draws := 0
  busWait := none

end Sys2Proof.Machine
end

