-- ==== Sys2Proof/Machine/Flags.lean ====
section
/-! DEFINITION. The flag bits of EC-DPB: CTRL (spec/10_state.md R25), STATUS (R26), FSTAT (R31), DCS (R42), and the
byte of each result code (spec/60_exceptions.md R171). -/

namespace Sys2Proof.Machine

/-- `v` with bit `i` set to `b` and the other bits kept. -/
def setBit (v : Byte) (i : Nat) (b : Bool) : Byte :=
  if b then v ||| (1#8 <<< i) else v &&& ~~~(1#8 <<< i)

/-- CTRL.CRC_EN, bit 0 (R25, R79). -/
def State.crcEn (s : State) : Bool := s.ctrl.getLsbD 0

/-- CTRL.OSS, bits 2..1 (R25, R79). -/
def State.oss (s : State) : Nat := (s.ctrl.extractLsb' 1 2).toNat

/-- STATUS.CAL_VALID, bit 0 (R26). -/
def State.calValid (s : State) : Bool := s.status.getLsbD 0

/-- STATUS.B5_FRESH, bit 1 (R26). -/
def State.b5Fresh (s : State) : Bool := s.status.getLsbD 1

/-- FSTAT.BUSY, bit 0 (R31). -/
def State.fBusy (s : State) : Bool := s.fstat.getLsbD 0

/-- FSTAT.CRC_MISMATCH, bit 1 (R31). -/
def State.fMismatch (s : State) : Bool := s.fstat.getLsbD 1

/-- FSTAT.VALID, bit 2 (R31). -/
def State.fValid (s : State) : Bool := s.fstat.getLsbD 2

/-- `STATUS.CAL_VALID <- b`. -/
def State.setCalValid (s : State) (b : Bool) : State := { s with status := setBit s.status 0 b }

/-- `STATUS.B5_FRESH <- b`. -/
def State.setB5Fresh (s : State) (b : Bool) : State := { s with status := setBit s.status 1 b }

/-- `FSTAT[1] <- b`, the other two flags unchanged (R103). -/
def State.setMismatch (s : State) (b : Bool) : State := { s with fstat := setBit s.fstat 1 b }

/-- `FSTAT[2] <- b` (R104). -/
def State.setValid (s : State) (b : Bool) : State := { s with fstat := setBit s.fstat 2 b }

/-- The whole of FSTAT at the start of a frame check: `{0b00000, 0, mism, busy}` (R104). -/
def fstatWord (mism busy : Bool) : Byte := (0#6 ++ BitVec.ofBool mism ++ BitVec.ofBool busy : BitVec (6 + 1 + 1))

/-- The bits of CTRL and of DCS that exist; the others read as 0 and ignore writes (R25, R42, R47). -/
def definedLow3 : Byte := 0x07#8

/-- The display-control bits of DCS (R42). -/
def dcsDisplay : Byte := 0x04#8
def dcsCursor : Byte := 0x02#8
def dcsBlink : Byte := 0x01#8

/-- The byte of a result code (R171). -/
def ResultCode.byte : ResultCode → Byte
  | .ok => 0x00#8
  | .busFailure => 0x01#8
  | .timeout => 0x02#8
  | .crcError => 0x03#8
  | .invalidArgument => 0x04#8
  | .invalidCalibration => 0x05#8
  | .frameBusy => 0x06#8
  | .staleB5 => 0x07#8
  | .divZero => 0x08#8
  | .illegalCmd => 0x09#8

end Sys2Proof.Machine
end

