-- ==== Sys2Proof/Machine/Operands.lean ====
section
/-! DEFINITION. Operands: the width functions of spec/00_scope.md R8, big-endian bytes (spec/20_memory.md R52), and
the operand assembly of spec/30_encoding.md R74–R79. -/

namespace Sys2Proof.Machine

/-- R8 `u32(v) = v mod 2^32`. -/
def u32 (v : Int) : Int := v % 4294967296

/-- R8 `s32(v)`: `u32(v)`, minus 2^32 if it is at least 2^31. -/
def s32 (v : Int) : Int := if u32 v < 2147483648 then u32 v else u32 v - 4294967296

/-- A signed division of CMP: R8 `fdiv` for this hardware's `DIV_ROUND`, toward zero for the alternative (R6). -/
def sdiv (m : DivRound) (a b : Int) : Int :=
  match m with
  | .floor => a.fdiv b
  | .trunc => a.tdiv b

/-- R118 `udiv`: floor division of non-negative integers. -/
def udiv (a b : Int) : Int := a.fdiv b

/-- The `n` low bytes of `v`, the most significant first (R52). -/
def bytesOf {w : Nat} (n : Nat) (v : BitVec w) : List Byte :=
  (List.range n).map fun i => v.extractLsb' (8 * (n - 1 - i)) 8

/-- The value of bytes whose first is the most significant (R52, R9). -/
def ofBytes (bs : List Byte) : Nat := bs.foldl (fun acc b => acc * 256 + b.toNat) 0

/-- An `n`-byte register with byte `k` (0 the most significant) replaced by `b` (R51, R52). -/
def setByte {w : Nat} (n : Nat) (v : BitVec w) (k : Nat) (b : Byte) : BitVec w :=
  let sh := 8 * (n - 1 - k)
  (v &&& ~~~((BitVec.allOnes 8).setWidth w <<< sh)) ||| (b.setWidth w <<< sh)

/-- R75 busy = FRAME0[7]: the busy bit of R6 `BUSY_MASK`. -/
def State.frameBusy (s : State) : Bool := s.frame[0] &&& Config.busyMask != 0#8

/-- R75 RH_raw = `{FRAME1, FRAME2, FRAME3[7:4]}`. -/
def State.frameRh (s : State) : BitVec 20 :=
  (s.frame[1] ++ s.frame[2] ++ s.frame[3].extractLsb' 4 4 : BitVec (8 + 8 + 4))

/-- R75 T_raw = `{FRAME3[3:0], FRAME4, FRAME5}`. -/
def State.frameT (s : State) : BitVec 20 :=
  (s.frame[3].extractLsb' 0 4 ++ s.frame[4] ++ s.frame[5] : BitVec (4 + 8 + 8))

/-- R78, R120 `raw[k] = {CALB(2k), CALB(2k+1)}`, in declaration order. -/
def State.calParse (s : State) : Vector (BitVec 16) 11 :=
  #v[s.calb[0] ++ s.calb[1], s.calb[2] ++ s.calb[3], s.calb[4] ++ s.calb[5], s.calb[6] ++ s.calb[7],
     s.calb[8] ++ s.calb[9], s.calb[10] ++ s.calb[11], s.calb[12] ++ s.calb[13], s.calb[14] ++ s.calb[15],
     s.calb[16] ++ s.calb[17], s.calb[18] ++ s.calb[19], s.calb[20] ++ s.calb[21]]

/-- R76: the temperature code, `zext_16`. -/
def State.utCode (s : State) : Int := (s.ut.toNat : Int)

/-- R77, R127: the pressure code, `zext_24(UPRAW) >> (8 − OSS)`. -/
def State.upCode (s : State) : BitVec 24 := s.upraw >>> (8 - s.oss)

/-- `sext_16` of a coefficient (R38, R78). -/
def sext16 (v : BitVec 16) : Int := v.toInt

/-- `zext_16` of a coefficient (R38, R78). -/
def zext16 (v : BitVec 16) : Int := (v.toNat : Int)

end Sys2Proof.Machine
end

