-- ==== Sys2Proof/Machine/Ops.lean ====
section
/-! DEFINITION. The operations shared by the instructions: the register map and its byte reads and stores
(spec/10_state.md R24, R47; spec/20_memory.md R51–R55), the end of a command with its result code (EC-DPB's
counterpart of taking an exception: spec/60_exceptions.md R170–R178; nothing is saved but the code, and there is no
return), reset (spec/70_reset_and_hazards.md R190, R191), the output port (R56, R57), and the next event from
outside. -/

namespace Sys2Proof.Machine

/-- The register map (R24). Every address it does not list is reserved (R47). -/
def registerMap : List RegRow :=
  [⟨.ctrl, 0x00, 1, .rw⟩, ⟨.status, 0x01, 1, .ro⟩, ⟨.cmd, 0x02, 1, .wo⟩, ⟨.result, 0x03, 1, .ro⟩,
   ⟨.err, 0x04, 1, .rc⟩] ++
  [⟨.frame, 0x10, 7, .rw⟩, ⟨.fstat, 0x17, 1, .ro⟩, ⟨.crcCalc, 0x18, 1, .ro⟩, ⟨.rhRaw, 0x19, 3, .ro⟩,
   ⟨.tRaw, 0x1C, 3, .ro⟩, ⟨.rhQ20, 0x20, 4, .ro⟩, ⟨.tcQ20, 0x24, 4, .ro⟩] ++
  [⟨.calb, 0x30, 22, .rw⟩, ⟨.ut, 0x48, 2, .rw⟩, ⟨.upraw, 0x4A, 3, .rw⟩, ⟨.coef, 0x50, 22, .ro⟩,
   ⟨.b5, 0x68, 4, .ro⟩, ⟨.t10, 0x6C, 4, .ro⟩, ⟨.p, 0x70, 4, .ro⟩, ⟨.up, 0x74, 3, .ro⟩] ++
  [⟨.dcs, 0x80, 1, .rw⟩, ⟨.txdata, 0x81, 1, .rw⟩, ⟨.curRow, 0x82, 1, .rw⟩, ⟨.curCol, 0x83, 1, .rw⟩,
   ⟨.txb, 0x84, 4, .ro⟩, ⟨.txn, 0x88, 1, .ro⟩]

/-- The register that holds address `a` and which of its bytes `a` is; none for a reserved address (R47). -/
def locate (a : Byte) : Option (RegRow × Nat) :=
  match registerMap.find? (fun r => decide (r.base ≤ a.toNat) && decide (a.toNat < r.base + r.bytes)) with
  | some r => some (r, a.toNat - r.base)
  | none => none

/-- A register's bytes as the host reads them, lowest address first (R24, R52). CMD reads as 0x00 (R27). -/
def State.regBytes (s : State) : Reg → List Byte
  | .ctrl => [s.ctrl]
  | .status => [s.status]
  | .cmd => [0x00#8]
  | .result => [s.result]
  | .err => [s.err]
  | .frame => s.frame.toList
  | .fstat => [s.fstat]
  | .crcCalc => [s.crcCalc]
  | .rhRaw => bytesOf 3 s.rhRaw
  | .tRaw => bytesOf 3 s.tRaw
  | .rhQ20 => bytesOf 4 s.rhQ20
  | .tcQ20 => bytesOf 4 s.tcQ20
  | .calb => s.calb.toList
  | .ut => bytesOf 2 s.ut
  | .upraw => bytesOf 3 s.upraw
  | .coef => s.coef.toList.flatMap (bytesOf 2)
  | .b5 => bytesOf 4 s.b5
  | .t10 => bytesOf 4 s.t10
  | .p => bytesOf 4 s.p
  | .up => bytesOf 3 s.up
  | .dcs => [s.dcs]
  | .txdata => [s.txdata]
  | .curRow => [s.curRow]
  | .curCol => [s.curCol]
  | .txb => s.txb.toList
  | .txn => [s.txn]

/-- The byte a HostRead of address `a` returns (R51); a reserved address gives 0x00 (R47). -/
def State.hostRead (s : State) (a : Byte) : Byte :=
  match locate a with
  | some (row, k) => (s.regBytes row.reg).getD k 0x00#8
  | none => 0x00#8

/-- R52 `MemRead(a, n)`: `n` consecutive bytes, the first the most significant. An address past 0xFF wraps to 0x00: the
model's choice, R52 does not speak of it (log entry 14). -/
def State.memRead (s : State) (a : Byte) (n : Nat) : Nat :=
  ofBytes ((List.range n).map fun i => s.hostRead (a + BitVec.ofNat 8 i))

/-- The store of one byte to byte `k` of a read-and-write register (R24, R25, R42, R47: the reserved bits of CTRL and
DCS ignore it); a store to UT also clears B5_FRESH (R36, R55). A register of any other access keeps its value. -/
def State.storeByte (s : State) (r : Reg) (k : Nat) (b : Byte) : State :=
  match r with
  | .ctrl => { s with ctrl := b &&& definedLow3 }
  | .frame => { s with frame := s.frame.setIfInBounds k b }
  | .calb => { s with calb := s.calb.setIfInBounds k b }
  | .ut => { s with ut := setByte 2 s.ut k b }.setB5Fresh false
  | .upraw => { s with upraw := setByte 3 s.upraw k b }
  | .dcs => { s with dcs := b &&& definedLow3 }
  | .txdata => { s with txdata := b }
  | .curRow => { s with curRow := b }
  | .curCol => { s with curCol := b }
  | .status | .cmd | .result | .err | .fstat | .crcCalc | .rhRaw | .tRaw | .rhQ20 | .tcQ20 | .coef | .b5 | .t10 | .p
  | .up | .txb | .txn => s

/-- The end of every command but SRST: RESULT takes the code, and ERR keeps the first failure (R93 step 4, R173). What
the command wrote before stands (R172). -/
def State.endCommand (s : State) (code : ResultCode) : State :=
  { s with
    result := code.byte
    err := if code.byte ≠ 0x00#8 ∧ s.err = 0x00#8 then code.byte else s.err }

/-- SRST: every register takes its reset value (R91, R190); the output history is an observation and stays, as does
the record of the host side. -/
def State.softReset (s : State) : State :=
  { State.reset with
    port := s.port, pending := s.pending, reads := s.reads, answers := s.answers, draws := s.draws,
    busWait := s.busWait }

/-- The power-on reset (R191): every register takes its reset value, no bus write is issued, the output history
begins anew (R56 "since reset"), and a hang ends (log entry 12). The record of the host side stays. -/
def State.powerOnReset (s : State) : State :=
  { State.reset with pending := s.pending, reads := s.reads, answers := s.answers, draws := s.draws }

/-- The environment's answer to the `i`-th output bus write from now (R57): the listed answers first, then the free
draw. -/
def State.answerAt (s : State) (i : Nat) : Option Ack :=
  match s.answers[i]? with
  | some a => a
  | none => Config.ackDraw (s.draws + (i - s.answers.length))

/-- The state after the next answer is taken. -/
def State.dropAnswer (s : State) : State :=
  match s.answers with
  | _ :: rest => { s with answers := rest }
  | [] => { s with draws := s.draws + 1 }

/-- R9, R57 `BusWrite(LCD_ADDR, b)`: the answer, and the state after it. An answered write joins the output history
(R56); a write that is never answered leaves the block waiting for it (R198). -/
def State.busWrite (s : State) (b : Byte) : Option Ack × State :=
  match s.answerAt 0 with
  | some a => (some a, { s.dropAnswer with port := s.port ++ [⟨Config.lcdAddr, b, a⟩] })
  | none => (none, { s.dropAnswer with busWait := some b })

/-- The next event from outside, in order (R59), and the state with it taken from the queue. -/
def State.fetch (s : State) : Option (HostEvent × State) :=
  match s.pending with
  | e :: rest => some (e, { s with pending := rest })
  | [] => none

end Sys2Proof.Machine
end

