-- ==== Sys2Proof/Machine/Compensation.lean ====
section
/-! DEFINITION. The compensation unit CMP: CAL_LOAD, CMP_TEMP and CMP_PRES (spec/42_compensation.md R118–R129). -/

namespace Sys2Proof.Machine

/-- R121: some coefficient equals either sentinel. -/
def hasSentinel (raw : Vector (BitVec 16) 11) : Bool := raw.toList.any (Config.calSentinels.contains ·)

/-- R121 CAL_LOAD. -/
def execCalLoad (s : State) : Host.Outcome State Fault Refusal :=
  if hasSentinel s.calParse then .next (((s.setB5Fresh false).setCalValid false).endCommand .invalidCalibration)
  else .next (({ s.setB5Fresh false with coef := s.calParse }.setCalValid true).endCommand .ok)

/-- R123 X1. -/
def tempX1 (m : DivRound) (coef : Vector (BitVec 16) 11) (ut : Int) : Int :=
  sdiv m (s32 ((ut - zext16 coef[5]) * zext16 coef[4])) 32768

/-- R123 den. -/
def tempDen (m : DivRound) (coef : Vector (BitVec 16) 11) (ut : Int) : Int :=
  s32 (tempX1 m coef ut + sext16 coef[10])

/-- R123 `tcomp(UT)`: `(X1, X2, B5v)`; none is `raise DIV_ZERO`. -/
def tcomp (m : DivRound) (coef : Vector (BitVec 16) 11) (ut : Int) : Option (Int × Int × Int) :=
  let x1 := tempX1 m coef ut
  let den := tempDen m coef ut
  if den = 0 then none
  else
    let x2 := sdiv m (s32 (sext16 coef[9] * 2048)) den
    some (x1, x2, s32 (x1 + x2))

/-- R124: the temperature in units of 0.1 °C. -/
def t10Of (m : DivRound) (b5v : Int) : Int := sdiv m (s32 (b5v + 8)) 16

/-- What a CMP_TEMP that succeeds writes: B5 and T10 as two's complement, and B5_FRESH (R125). -/
def State.tempWritten (s : State) (b5v : Int) : State :=
  { s with b5 := BitVec.ofInt 32 b5v, t10 := BitVec.ofInt 32 (t10Of Config.divRound b5v) }.setB5Fresh true

/-- R125 CMP_TEMP: B5_FRESH is cleared first, and set again only on success. -/
def execCmpTemp (s : State) : Host.Outcome State Fault Refusal :=
  if !s.calValid then .next ((s.setB5Fresh false).endCommand .invalidCalibration)
  else
    match tcomp Config.divRound s.coef s.utCode with
    | none => .next ((s.setB5Fresh false).endCommand .divZero)
    | some (_, _, b5v) => .next (((s.setB5Fresh false).tempWritten b5v).endCommand .ok)

/-- R126 B6. -/
def presB6 (b5v : Int) : Int := s32 (b5v - 4000)

/-- R126 S, the term B6²/2^12. -/
def presS (m : DivRound) (b5v : Int) : Int := sdiv m (s32 (presB6 b5v * presB6 b5v)) 4096

/-- R126 B3. -/
def presB3 (m : DivRound) (coef : Vector (BitVec 16) 11) (b5v : Int) (oss : Nat) : Int :=
  let x1 := sdiv m (s32 (sext16 coef[7] * presS m b5v)) 2048
  let x2 := sdiv m (s32 (sext16 coef[1] * presB6 b5v)) 2048
  let x3 := s32 (x1 + x2)
  sdiv m (s32 (s32 (s32 (sext16 coef[0] * 4 + x3) * 2 ^ oss) + 2)) 4

/-- R126 B4, unsigned. -/
def presB4 (m : DivRound) (coef : Vector (BitVec 16) 11) (b5v : Int) : Int :=
  let x1 := sdiv m (s32 (sext16 coef[2] * presB6 b5v)) 8192
  let x2 := sdiv m (s32 (sext16 coef[6] * presS m b5v)) 65536
  let x3 := sdiv m (s32 (s32 (x1 + x2) + 2)) 4
  u32 (zext16 coef[3] * u32 (x3 + 32768)) / 32768

/-- R126 B7, unsigned. -/
def presB7 (upv b3 : Int) (oss : Nat) : Int := u32 (u32 (upv - b3) * ((50000 >>> oss : Nat) : Int))

/-- R128: the quotient p. -/
def presQuot (b7 b4 : Int) : Int :=
  if b7 < 2147483648 then s32 (udiv (b7 * 2) b4) else s32 (u32 (udiv b7 b4 * 2))

/-- R126, the last four lines: the pressure from p. -/
def presFinal (m : DivRound) (p : Int) : Int :=
  let q := sdiv m p 256
  let x1 := sdiv m (s32 (s32 (q * q) * 3038)) 65536
  let x2 := sdiv m (s32 (-7357 * p)) 65536
  s32 (p + sdiv m (s32 (x1 + x2 + 3791)) 16)

/-- R126 `pcomp(B5v, UPv, oss)`; none is `raise DIV_ZERO`. -/
def pcomp (m : DivRound) (coef : Vector (BitVec 16) 11) (b5v upv : Int) (oss : Nat) : Option Int :=
  let b4 := presB4 m coef b5v
  if b4 = 0 then none
  else some (presFinal m (presQuot (presB7 upv (presB3 m coef b5v oss) oss) b4))

/-- What a CMP_PRES that succeeds writes: UP, and P as two's complement (R129). -/
def State.presWritten (s : State) (pv : Int) : State :=
  { s with up := s.upCode, p := BitVec.ofInt 32 pv }

/-- R129 CMP_PRES: every one consumes B5; CAL_VALID is looked at before the freshness (R175). -/
def execCmpPres (s : State) : Host.Outcome State Fault Refusal :=
  if !s.calValid then .next ((s.setB5Fresh false).endCommand .invalidCalibration)
  else if !s.b5Fresh then .next ((s.setB5Fresh false).endCommand .staleB5)
  else
    match pcomp Config.divRound s.coef s.b5.toInt (s.upCode.toNat : Int) s.oss with
    | none => .next ((s.setB5Fresh false).endCommand .divZero)
    | some pv => .next (((s.setB5Fresh false).presWritten pv).endCommand .ok)

end Sys2Proof.Machine
end

