-- ==== Sys2Proof/Machine/Control.lean ====
section
/-! DEFINITION. The control family: NOP, SRST and ILLEGAL (spec/40_control.md R90–R92). -/

namespace Sys2Proof.Machine

/-- R90: `finish OK`. -/
def execNop (s : State) : Host.Outcome State Fault Refusal :=
  .next (s.endCommand .ok)

/-- R91: the whole block returns to its reset state; RESULT and ERR are 0x00. -/
def execSrst (s : State) : Host.Outcome State Fault Refusal :=
  .next s.softReset

/-- R92: `raise ILLEGAL_CMD`. The opcode is not recorded. -/
def execIllegal (_op : Byte) (s : State) : Host.Outcome State Fault Refusal :=
  .next (s.endCommand .illegalCmd)

end Sys2Proof.Machine
end

