-- ==== Sys2Proof/Machine/Frame.lean ====
section
/-! DEFINITION. The humidity-frame unit FRM: CRC-8, decode, conversion, FRM_CRC and FRM_CHECK (spec/41_frame.md
R100–R104). -/

namespace Sys2Proof.Machine

/-- One of the eight bit steps of R100. -/
def crcStep (c : Byte) : Byte :=
  if c.getLsbD 7 then (c <<< 1) ^^^ Config.crcPoly else c <<< 1

/-- One byte of R100: XOR it into the running value, then eight bit steps. -/
def crcByte (c d : Byte) : Byte :=
  crcStep (crcStep (crcStep (crcStep (crcStep (crcStep (crcStep (crcStep (c ^^^ d))))))))

/-- R100 `crc8`: no final XOR. -/
def crc8 (ds : List Byte) : Byte := ds.foldl crcByte Config.crcInit

/-- The CRC of FRAME0–FRAME5 (R100, R103, R104). -/
def State.frameCrc (s : State) : Byte := crc8 (s.frame.toList.take Config.crcLen)

/-- R103: whether the computed CRC differs from FRAME6. -/
def State.crcMismatch (s : State) : Bool := s.frameCrc != s.frame[6]

/-- R102 `rhq = rh × 100`. -/
def rhConvert (rh : BitVec 20) : BitVec 32 := BitVec.ofNat 32 (rh.toNat * 100)

/-- R102 `tq = t × 200 − 50 × 2^20`, stored as two's complement. -/
def tConvert (t : BitVec 20) : BitVec 32 := BitVec.ofInt 32 ((t.toNat : Int) * 200 - 52428800)

/-- R103 FRM_CRC. -/
def execFrmCrc (s : State) : Host.Outcome State Fault Refusal :=
  .next (({ s with crcCalc := s.frameCrc }.setMismatch s.crcMismatch).endCommand .ok)

/-- What FRM_CHECK writes whatever the outcome: CRC_CALC and the whole of FSTAT, VALID being 0 (R104). -/
def State.frameFlags (s : State) : State :=
  { s with crcCalc := s.frameCrc, fstat := fstatWord s.crcMismatch s.frameBusy }

/-- The decoded and converted registers of an accepted frame, and VALID (R104). -/
def State.frameDecoded (s : State) : State :=
  { s with
    rhRaw := s.frameRh.setWidth 24
    tRaw := s.frameT.setWidth 24
    rhQ20 := rhConvert s.frameRh
    tcQ20 := tConvert s.frameT }.setValid true

/-- R104 FRM_CHECK: the busy bit is looked at before the CRC (R175). -/
def execFrmCheck (s : State) : Host.Outcome State Fault Refusal :=
  if s.frameBusy then .next (s.frameFlags.endCommand .frameBusy)
  else if s.crcEn && s.crcMismatch then .next (s.frameFlags.endCommand .crcError)
  else .next (s.frameFlags.frameDecoded.endCommand .ok)

end Sys2Proof.Machine
end

