-- ==== Sys2Proof/Machine/Nibble.lean ====
section
/-! DEFINITION. The nibble-framing transmitter NIB: the framing function, the raw byte commands, the display-control
toggles and the cursor (spec/43_nibble.md R150–R159). -/

namespace Sys2Proof.Machine

/-- R150: the four bus bytes of `b` with register select `rs`: each nibble in bits 7..4, the high one first, first
with EN (bit 2) asserted and then without; backlight (bit 3) on, RW (bit 1) write. -/
def nibBytes (b rs : Byte) : Vector Byte 4 :=
  let ctl := 0x08#8 ||| rs
  let hi := b &&& 0xF0#8
  let lo := (b <<< 4) &&& 0xF0#8
  #v[hi ||| ctl ||| 0x04#8, hi ||| ctl, lo ||| ctl ||| 0x04#8, lo ||| ctl]

/-- The loop of R150 over the bus bytes still to be sent, `n` of them acknowledged so far, and the end of the command:
OK after the last, BUS_FAILURE at the first NACK; a write that is never answered leaves the command unfinished
(R198). -/
def sendFrom : List Byte → Nat → State → State
  | [], _, s => s.endCommand .ok
  | b :: rest, n, s =>
    match s.busWrite b with
    | (some .ack, s1) => sendFrom rest (n + 1) { s1 with txn := BitVec.ofNat 8 (n + 1) }
    | (some .nack, s1) => s1.endCommand .busFailure
    | (none, s1) => s1

/-- R150 `nib_send(b, rs) ; finish OK`, with which every NIB command ends. -/
def State.nibSend (s : State) (b rs : Byte) : State :=
  sendFrom (nibBytes b rs).toList 0 { s with txb := nibBytes b rs, txn := 0x00#8 }

/-- R151 LCD_CMD. -/
def execLcdCmd (s : State) : Host.Outcome State Fault Refusal :=
  .next (s.nibSend s.txdata 0x00#8)

/-- R152 LCD_DATA. -/
def execLcdData (s : State) : Host.Outcome State Fault Refusal :=
  .next (s.nibSend s.txdata 0x01#8)

/-- The common shape of the six toggles (section 3 of spec/43_nibble.md): DCS takes its new value, then the whole
display-control command `0x08 | DCS` is sent. -/
def State.resendDcs (s : State) (dcs : Byte) : State :=
  { s with dcs := dcs }.nibSend (0x08#8 ||| dcs) 0x00#8

/-- R153 DISP_ON. -/
def execDispOn (s : State) : Host.Outcome State Fault Refusal :=
  .next (s.resendDcs (s.dcs ||| dcsDisplay))

/-- R154 DISP_OFF. -/
def execDispOff (s : State) : Host.Outcome State Fault Refusal :=
  .next (s.resendDcs (s.dcs &&& 0x03#8))

/-- R155 CURS_ON. -/
def execCursOn (s : State) : Host.Outcome State Fault Refusal :=
  .next (s.resendDcs (s.dcs ||| dcsCursor))

/-- R156 CURS_OFF. -/
def execCursOff (s : State) : Host.Outcome State Fault Refusal :=
  .next (s.resendDcs (s.dcs &&& 0x05#8))

/-- R157 BLINK_ON. -/
def execBlinkOn (s : State) : Host.Outcome State Fault Refusal :=
  .next (s.resendDcs (s.dcs ||| dcsBlink))

/-- R158 BLINK_OFF. -/
def execBlinkOff (s : State) : Host.Outcome State Fault Refusal :=
  .next (s.resendDcs (s.dcs &&& 0x06#8))

/-- R159: the DDRAM address of a row and column. -/
def ddramAddr (row col : Byte) : Byte := if row = 0x00#8 then col else 0x40#8 + col

/-- R159 SET_CURSOR: the row is checked first, then the column; neither failure writes the bus. -/
def execSetCursor (s : State) : Host.Outcome State Fault Refusal :=
  let s1 : State := { s with txn := 0x00#8 }
  if s.curRow > 0x01#8 then .next (s1.endCommand .invalidArgument)
  else if s.curCol > Config.colMax then .next (s1.endCommand .invalidArgument)
  else .next (s1.nibSend (0x80#8 ||| ddramAddr s.curRow s.curCol) 0x00#8)

end Sys2Proof.Machine
end

