-- ==== Sys2Proof/Machine/HostAccess.lean ====
section
/-! DEFINITION. The two host accesses: HostRead and HostWrite (spec/20_memory.md R51, R55, R60). -/

namespace Sys2Proof.Machine

/-- The command that a HostWrite of `c` to CMD performs (R27, R60, R72, R93): the opcode map of R72, each line with
its command's meaning; every other byte is ILLEGAL. -/
def performOpcode (c : Byte) (s : State) : Host.Outcome State Fault Refusal :=
  match c.toNat with
  | 0x00 => execNop s
  | 0x0F => execSrst s
  | 0x10 => execFrmCrc s
  | 0x11 => execFrmCheck s
  | 0x20 => execCalLoad s
  | 0x21 => execCmpTemp s
  | 0x22 => execCmpPres s
  | 0x30 => execLcdCmd s
  | 0x31 => execLcdData s
  | 0x32 => execDispOn s
  | 0x33 => execDispOff s
  | 0x34 => execCursOn s
  | 0x35 => execCursOff s
  | 0x36 => execBlinkOn s
  | 0x37 => execBlinkOff s
  | 0x38 => execSetCursor s
  | _ => execIllegal c s

/-- R51, R55 HostWrite(a, b), by the access of the register at `a` (R24): a reserved address and a read-only register
ignore it (R47), ERR is cleared (R29), CMD performs the command (R60), and any other register stores the byte. -/
def execHostWr (a b : Byte) (s : State) : Host.Outcome State Fault Refusal :=
  match locate a with
  | none => .next s
  | some (row, k) =>
    match row.access with
    | .ro => .next s
    | .rc => .next { s with err := 0x00#8 }
    | .wo => performOpcode b s
    | .rw => .next (s.storeByte row.reg k b)

/-- R51, R55 HostRead(a): the byte is returned to the host, and no register changes. The answer is recorded in
`reads`. -/
def execHostRd (a : Byte) (s : State) : Host.Outcome State Fault Refusal :=
  .next { s with reads := s.reads ++ [(a, s.hostRead a)] }

end Sys2Proof.Machine
end

