-- ==== Sys2Proof/Machine/Dispatch.lean ====
section
/-! DEFINITION. One arm per instruction. -/

namespace Sys2Proof.Machine

def exec (i : Instr) (s : State) : Host.Outcome State Fault Refusal :=
  match i with
  | .nop => Sys2Proof.Machine.execNop s
  | .srst => Sys2Proof.Machine.execSrst s
  | .frmCrc => Sys2Proof.Machine.execFrmCrc s
  | .frmCheck => Sys2Proof.Machine.execFrmCheck s
  | .calLoad => Sys2Proof.Machine.execCalLoad s
  | .cmpTemp => Sys2Proof.Machine.execCmpTemp s
  | .cmpPres => Sys2Proof.Machine.execCmpPres s
  | .lcdCmd => Sys2Proof.Machine.execLcdCmd s
  | .lcdData => Sys2Proof.Machine.execLcdData s
  | .dispOn => Sys2Proof.Machine.execDispOn s
  | .dispOff => Sys2Proof.Machine.execDispOff s
  | .cursOn => Sys2Proof.Machine.execCursOn s
  | .cursOff => Sys2Proof.Machine.execCursOff s
  | .blinkOn => Sys2Proof.Machine.execBlinkOn s
  | .blinkOff => Sys2Proof.Machine.execBlinkOff s
  | .setCursor => Sys2Proof.Machine.execSetCursor s
  | .hostWr addr data => Sys2Proof.Machine.execHostWr addr data s
  | .hostRd addr => Sys2Proof.Machine.execHostRd addr s
  | .illegal op => Sys2Proof.Machine.execIllegal op s

end Sys2Proof.Machine
end

