-- ==== Sys2Proof/Machine/Step.lean ====
section
/-! DEFINITION. One step: the next event from outside, in order. A host access takes effect whole
(spec/20_memory.md R58–R60); a power-on reset resets the block (spec/70_reset_and_hazards.md R191); with none pending
the block is idle and holds its state (R65, spec/60_exceptions.md R185). A block that waits for the answer to a bus
write that never comes has no successor (R198) but by a power-on reset. -/

namespace Sys2Proof.Machine

/-- One host access: the word decoded (R71) and performed, unless the block still waits on the bus (R198). -/
def stepAccess (w : HostWord) (s : State) : Host.Outcome State Fault Refusal :=
  match s.busWait with
  | some _ => .fault .busNeverAnswered
  | none =>
    match decodeHostWord w with
    | .ok i => exec i s
    | .error _ => .refused .undefinedHostWord

/-- One step of the machine. -/
def step (s : State) : Host.Outcome State Fault Refusal :=
  match s.fetch with
  | some (.powerOnReset, s1) => .next s1.powerOnReset
  | some (.access w, s1) => stepAccess w s1
  | none =>
    match s.busWait with
    | some _ => .fault .busNeverAnswered
    | none => .next s

/-- `s` with the instruction of an opcode-table word as the next host access (a command byte as a HostWrite to CMD:
R70), and the block not waiting on the bus, so that the next step runs that instruction. -/
def State.withFetchWord (s : State) (nbits w : Nat) : State :=
  { s with pending := .access (hostWordOf (codeOfTableWord nbits w)) :: s.pending, busWait := none }

end Sys2Proof.Machine
end

