-- ==== Sys2Proof/Safety.lean ====
section
/-! DEFINITION. The terms claims are stated in: the invariants of spec/10_state.md R48 and of the result codes, what a
command leaves unchanged, sequences of instructions, and what a run must not do. -/

namespace Sys2Proof.Machine

/-- The invariants of R48. -/
structure State.InRange (s : State) : Prop where
  freshIsCalibrated : s.b5Fresh = true → s.calValid = true
  validIsNotBusy : s.fValid = true → s.fBusy = false
  rhRaw : s.rhRaw.toNat < 1048576
  tRaw : s.tRaw.toNat < 1048576
  up : s.up.toNat < 524288
  txn : s.txn.toNat ≤ 4
  dcs : s.dcs.toNat ≤ 7
  ctrl : s.ctrl.toNat ≤ 7

/-- The reserved bits of STATUS (R26) and FSTAT (R31) hold 0, and the converted values lie in the ranges of R34. -/
structure State.ReservedClear (s : State) : Prop where
  status : s.status.toNat ≤ 3
  fstat : s.fstat.toNat ≤ 7
  rhQ20 : s.rhQ20.toNat ≤ 104857500
  tcQ20Low : -52428800 ≤ s.tcQ20.toInt
  tcQ20High : s.tcQ20.toInt ≤ 157286200

/-- The result codes a command may end with: not TIMEOUT (0x02), and none of the reserved 0x0A–0xFF (R171). -/
def producedCodes : List Byte := [0x00#8, 0x01#8, 0x03#8, 0x04#8, 0x05#8, 0x06#8, 0x07#8, 0x08#8, 0x09#8]

/-- RESULT and ERR hold produced codes (R28, R29, R171). -/
def State.CodesProduced (s : State) : Prop := s.result ∈ producedCodes ∧ s.err ∈ producedCodes

/-- While CAL_VALID is 1 no coefficient is a sentinel (R121, R122). -/
def State.CalibrationUsable (s : State) : Prop :=
  s.calValid = true → ∀ v ∈ s.coef.toList, v ≠ 0x0000#16 ∧ v ≠ 0xFFFF#16

/-- A power-on reset is what comes next from outside (R191). -/
def State.ResetComes (s : State) : Prop := s.pending.head? = some .powerOnReset

/-- The block waits for the answer to a bus write that never comes (R198), and no power-on reset comes next. -/
def State.Stuck (s : State) : Prop := s.busWait ≠ none ∧ ¬ s.ResetComes

/-- The registers outside `rs` read the same in `t` as in `s`, every byte of them. -/
def KeepsRegs (rs : List Reg) (s t : State) : Prop := ∀ r, r ∉ rs → t.regBytes r = s.regBytes r

/-- No bus write is issued: the output history, the answers and the wait are as they were. -/
def PortQuiet (s t : State) : Prop :=
  t.port = s.port ∧ t.answers = s.answers ∧ t.draws = s.draws ∧ t.busWait = s.busWait

/-- What is still to come from outside and the answers given to reads are as they were. -/
def HostSideKept (s t : State) : Prop := t.pending = s.pending ∧ t.reads = s.reads

/-- ERR after a command that ends with the byte `c`, by the first-failure latch (R173). -/
def latched (c err : Byte) : Byte := if c ≠ 0x00#8 ∧ err = 0x00#8 then c else err

end Sys2Proof.Machine

namespace Sys2Proof

/-- The instruction whose effect an instruction has: a HostWrite to CMD is the command it performs (R60). -/
def Instr.performed : Instr → Instr
  | .hostWr a c => if a = 0x02#8 then decodeCommand c else .hostWr a c
  | i => i

end Sys2Proof

namespace Sys2Proof.Machine

/-- The commands of the NIB family (spec/00_scope.md R2, R72). -/
def nibCommands : List Instr :=
  [.lcdCmd, .lcdData, .dispOn, .dispOff, .cursOn, .cursOff, .blinkOn, .blinkOff, .setCursor]

/-- The six toggles with the DCS mask and the direction R73 reads from their opcodes 0x32–0x37. -/
def toggleTable : List (Instr × Byte × Bool) :=
  [(.dispOn, 0x04#8, true), (.dispOff, 0x04#8, false), (.cursOn, 0x02#8, true), (.cursOff, 0x02#8, false),
   (.blinkOn, 0x01#8, true), (.blinkOff, 0x01#8, false)]

/-- DCS after a toggle of `mask`. -/
def toggledDcs (mask : Byte) (on : Bool) (dcs : Byte) : Byte :=
  if on then dcs ||| mask else dcs &&& (0x07#8 ^^^ mask)

/-- The four bus bytes of a byte of value `d` with register select `rs`, as numbers (R150): each nibble times 16, plus
8 for the backlight, 4 where EN is asserted, and `rs`. -/
def wireBytes (d rs : Nat) : List Nat :=
  [d / 16 * 16 + 12 + rs, d / 16 * 16 + 8 + rs, d % 16 * 16 + 12 + rs, d % 16 * 16 + 8 + rs]

/-- The byte and register select a NIB command sends from `s`, where its arguments pass (R151–R159). -/
inductive Sends : Instr → State → Byte → Nat → Prop where
  | lcdCmd (s : State) : Sends .lcdCmd s s.txdata 0
  | lcdData (s : State) : Sends .lcdData s s.txdata 1
  | toggle (s : State) (i : Instr) (mask : Byte) (on : Bool) (h : (i, mask, on) ∈ toggleTable) :
      Sends i s (0x08#8 ||| toggledDcs mask on s.dcs) 0
  | row0 (s : State) (h : s.curRow = 0x00#8) (hc : s.curCol.toNat ≤ 39) :
      Sends .setCursor s (BitVec.ofNat 8 (128 + s.curCol.toNat)) 0
  | row1 (s : State) (h : s.curRow = 0x01#8) (hc : s.curCol.toNat ≤ 39) :
      Sends .setCursor s (BitVec.ofNat 8 (128 + 64 + s.curCol.toNat)) 0

/-- The next four output bus writes are all answered ACK. -/
def State.FourAcks (s : State) : Prop := ∀ i, i < 4 → s.answerAt i = some .ack

/-- The first `j` answers from now are ACK. -/
def State.AcksBefore (s : State) (j : Nat) : Prop := ∀ i, i < j → s.answerAt i = some .ack

/-- The events of acknowledged writes of the bytes `ds` to the display. -/
def ackedEvents (ds : List Nat) : List BusEvent := ds.map fun d => ⟨0x4E#8, BitVec.ofNat 8 d, .ack⟩

/-- The instructions of a list, executed one after the other; none where one does not answer a next state. -/
def execAll : List Instr → State → Option State
  | [], s => some s
  | i :: rest, s =>
    match exec i s with
    | .next t => execAll rest t
    | .fault _ => none
    | .refused _ => none

end Sys2Proof.Machine

namespace Sys2Proof

/-- The instructions after which B5 is not fresh, or that make it fresh anew (R26): CMP_TEMP, CMP_PRES, CAL_LOAD, SRST
and a write to UT. -/
def Instr.touchesFresh (i : Instr) : Bool :=
  match i.performed with
  | .cmpTemp | .cmpPres | .calLoad | .srst => true
  | .hostWr a _ => a = 0x48#8 || a = 0x49#8
  | .nop | .frmCrc | .frmCheck | .lcdCmd | .lcdData | .dispOn | .dispOff | .cursOn | .cursOff | .blinkOn | .blinkOff
  | .setCursor | .hostRd _ | .illegal _ => false

/-- The instructions that clear ERR (R29, R91). -/
def Instr.clearsErr (i : Instr) : Bool :=
  match i.performed with
  | .srst => true
  | .hostWr a _ => a = 0x04#8
  | .nop | .frmCrc | .frmCheck | .calLoad | .cmpTemp | .cmpPres | .lcdCmd | .lcdData | .dispOn | .dispOff | .cursOn
  | .cursOff | .blinkOn | .blinkOff | .setCursor | .hostRd _ | .illegal _ => false

/-- The registers a command may write, as the opcode map lists them (R72); RESULT and ERR among them. A host access
has no line in that map. -/
def Instr.writtenRegs : Instr → List Machine.Reg
  | .nop => [.result]
  | .srst => [.ctrl, .status, .cmd, .result, .err, .frame, .fstat, .crcCalc, .rhRaw, .tRaw, .rhQ20, .tcQ20, .calb, .ut,
      .upraw, .coef, .b5, .t10, .p, .up, .dcs, .txdata, .curRow, .curCol, .txb, .txn]
  | .frmCrc => [.crcCalc, .fstat, .result]
  | .frmCheck => [.crcCalc, .fstat, .rhRaw, .tRaw, .rhQ20, .tcQ20, .result, .err]
  | .calLoad => [.coef, .status, .result, .err]
  | .cmpTemp => [.b5, .t10, .status, .result, .err]
  | .cmpPres => [.up, .p, .status, .result, .err]
  | .lcdCmd | .lcdData | .setCursor => [.txb, .txn, .result, .err]
  | .dispOn | .dispOff | .cursOn | .cursOff | .blinkOn | .blinkOff => [.dcs, .txb, .txn, .result, .err]
  | .illegal _ => [.result, .err]
  | .hostWr _ _ | .hostRd _ => []

/-- The instructions that are commands: those with a line in the opcode map, and ILLEGAL (R72, R92). -/
def Instr.isCommand : Instr → Bool
  | .hostWr _ _ | .hostRd _ => false
  | .nop | .srst | .frmCrc | .frmCheck | .calLoad | .cmpTemp | .cmpPres | .lcdCmd | .lcdData | .dispOn | .dispOff
  | .cursOn | .cursOff | .blinkOn | .blinkOff | .setCursor | .illegal _ => true

end Sys2Proof

namespace Sys2Proof.Machine

/-- A safe run: the step does not stop. -/
def State.Continues (s : State) : Prop := ∃ t, step s = .next t

end Sys2Proof.Machine
end

