-- ==== Sys2Proof/Certificates/Slice0/Obligations.lean ====
section
/-! DEFINITION. The statements about EC-DPB, from the numbered rules of spec/. -/

open Sys2Proof Sys2Proof.Machine

/-! ## Encoding and the step -/

/-- R70–R72, R80: decoding the code of a well-formed instruction gives it back, every operand at every value. -/
def Obligations.DecodeOfEncodeGivesTheInstruction : Prop :=
  ∀ i : Instr, i.wf = true → decode (encode i) = .ok i

/-- R70–R72, R80: what decodes to an instruction is that instruction's code, and the instruction is well-formed: no
two codes share an instruction, and no defined opcode falls to ILLEGAL. -/
def Obligations.EncodeOfDecodeGivesTheCode : Prop :=
  ∀ (c : Code) (i : Instr), decode c = .ok i → encode i = c ∧ i.wf = true

/-- Words written out from R71 and R72: SRST, FRM_CHECK, CMP_PRES, BLINK_OFF, an undefined byte, and the host words
`1023E`, `00300` and the undefined `00301`. -/
def Obligations.WordsOfTheSpecDecode : Prop :=
  decode (.cmd8 0b00001111#8) = .ok .srst ∧ decode (.cmd8 0b00010001#8) = .ok .frmCheck ∧
  decode (.cmd8 0b00100010#8) = .ok .cmpPres ∧ decode (.cmd8 0b00110111#8) = .ok .blinkOff ∧
  decode (.cmd8 0b00111001#8) = .ok (.illegal 0b00111001#8) ∧
  decode (.hostAcc 0b10000001000111110#17) = .ok (.hostWr 0x02#8 0x3E#8) ∧
  decode (.hostAcc 0b00000001100000000#17) = .ok (.hostRd 0x03#8) ∧
  decode (.hostAcc 0b00000001100000001#17) = .error (.readWithData 0x01#8)

/-- R80: of the 256 opcode values 16 are defined and 240 perform ILLEGAL. -/
def Obligations.TwoHundredFortyOpcodesAreIllegal : Prop :=
  ((List.range 256).filter fun n => decide (decodeCommand (BitVec.ofNat 8 n) = .illegal (BitVec.ofNat 8 n))).length
    = 240

/-- R73: bits 2..1 of a toggle opcode pick the DCS bit and bit 0 the direction. -/
def Obligations.ToggleOpcodesSelectMaskAndDirection : Prop :=
  ∀ c : Byte, 0x32#8 ≤ c → c ≤ 0x37#8 →
    (decodeCommand c, 0x08#8 >>> (c.extractLsb' 1 2).toNat, !c.getLsbD 0) ∈ toggleTable

/-- With a well-formed instruction's host word first in the queue and the block not stuck, a step is that
instruction's `exec` in the state with the word taken. A command's host word is a HostWrite to CMD (R70, R60). -/
def Obligations.StepRunsTheDecodedInstruction : Prop :=
  ∀ (i : Instr) (rest : List HostEvent) (s : State), i.wf = true → s.busWait = none →
    s.pending = .access (hostWordOf (encode i)) :: rest → step s = exec i { s with pending := rest }

/-- R185: with no host access pending and no bus write outstanding the block holds its state. -/
def Obligations.IdleBlockHoldsItsState : Prop :=
  ∀ s : State, s.pending = [] → s.busWait = none → step s = .next s

/-- `exec` of every instruction answers a next state in every state: no fault and no refusal (R170, R180). That it does so
too for a NIB command whose bus write is never answered, with a stuck state from which `step` faults (R198), is the
model's choice (log entry 4). -/
def Obligations.EveryInstructionAnswersANextState : Prop :=
  ∀ (i : Instr) (s : State), ∃ t, exec i s = .next t

/-! ## Control commands, result codes and reset -/

/-- R90: opcode 0x00, RESULT is 0x00, and nothing else changes. -/
def Obligations.NopOnlyReportsOk : Prop :=
  decodeCommand 0x00#8 = .nop ∧ ∀ s : State, exec .nop s = .next { s with result := 0x00#8 }

/-- R91: opcode 0x0F, every register takes its reset value, no bus write is issued, and the output history stays. -/
def Obligations.SrstRestoresEveryRegister : Prop :=
  decodeCommand 0x0F#8 = .srst ∧ ∀ s : State, ∃ t, exec .srst s = .next t ∧ KeepsRegs [] State.reset t ∧ PortQuiet s t ∧ HostSideKept s t

/-- R92: every byte that R72 does not list sets RESULT to 0x09, and ERR to 0x09 if it was 0x00, and changes nothing
else. -/
def Obligations.UndefinedOpcodeOnlyReportsIllegal : Prop :=
  ∀ (c : Byte) (s : State), c ∉ definedOpcodes →
    exec (decodeCommand c) s =
      .next { s with result := 0x09#8, err := if s.err = 0x00#8 then 0x09#8 else s.err }

/-- R173: a command that completes sets RESULT to a result code and latches it in ERR if it is a failure and ERR was
0x00; SRST sets both to 0x00; a host write to ERR sets ERR to 0x00. -/
def Obligations.FirstFailureIsLatched : Prop :=
  (∀ (i : Instr) (s t : State), i.isCommand = true → i ≠ .srst → exec i s = .next t → t.busWait = none →
    ∃ code : ResultCode, t.result = code.byte ∧ t.err = if code.byte ≠ 0x00#8 ∧ s.err = 0x00#8 then code.byte else s.err) ∧
  (∀ s t : State, exec .srst s = .next t → t.result = 0x00#8 ∧ t.err = 0x00#8) ∧
  (∀ (b : Byte) (s : State), exec (.hostWr 0x04#8 b) s = .next { s with err := 0x00#8 })

/-- R173, R29: over any sequence of instructions that does not clear ERR, a failure once latched stays; a failure latched
by the sequence is the result of the first instruction after which ERR was not 0x00; and a command of the sequence that
completes with a failure leaves ERR nonzero to the end, at its own code where ERR was 0x00 before it. -/
def Obligations.ErrKeepsTheFirstFailureOfASequence : Prop :=
  ∀ (l : List Instr) (s t : State), (∀ i ∈ l, i.clearsErr = false) → execAll l s = some t →
    (s.err ≠ 0x00#8 → t.err = s.err) ∧
    (s.err = 0x00#8 → t.err ≠ 0x00#8 → ∃ a i b m n, l = a ++ i :: b ∧ execAll a s = some m ∧ m.err = 0x00#8 ∧
      exec i m = .next n ∧ n.result = t.err ∧ n.err = t.err) ∧
    (∀ a i b m n, l = a ++ i :: b → execAll a s = some m → exec i m = .next n → i.performed.isCommand = true →
      n.busWait = none → n.result ≠ 0x00#8 → t.err ≠ 0x00#8 ∧ (m.err = 0x00#8 → t.err = n.result))

/-- R190: the reset value of every register, and what the host reads of CMD. -/
def Obligations.ResetGivesTheListedValues : Prop :=
  State.reset.ctrl = 0x01#8 ∧ State.reset.crcEn = true ∧ State.reset.oss = 0 ∧ State.reset.status = 0x00#8 ∧
  State.reset.hostRead 0x02#8 = 0x00#8 ∧ State.reset.result = 0x00#8 ∧ State.reset.err = 0x00#8 ∧
  State.reset.frame.toList = List.replicate 7 0x00#8 ∧ State.reset.fstat = 0x00#8 ∧ State.reset.crcCalc = 0x00#8 ∧
  State.reset.rhRaw = 0#24 ∧ State.reset.tRaw = 0#24 ∧ State.reset.rhQ20 = 0#32 ∧ State.reset.tcQ20 = 0#32 ∧
  State.reset.calb.toList = List.replicate 22 0x00#8 ∧ State.reset.ut = 0#16 ∧ State.reset.upraw = 0#24 ∧
  State.reset.coef.toList = List.replicate 11 0x0000#16 ∧ State.reset.b5 = 0#32 ∧ State.reset.t10 = 0#32 ∧
  State.reset.p = 0#32 ∧ State.reset.up = 0#24 ∧ State.reset.dcs = 0x04#8 ∧ State.reset.txdata = 0x00#8 ∧
  State.reset.curRow = 0x00#8 ∧ State.reset.curCol = 0x00#8 ∧ State.reset.txb.toList = List.replicate 4 0x00#8 ∧
  State.reset.txn = 0x00#8

/-- With a power-on reset next from outside, a step leads from every state, a hung one too, to the R190 state, and
issues no bus write. That the reset comes as a queued event, that it ends a hang and that the output history begins
anew is the model's choice (log entries 6 and 12). -/
def Obligations.PowerOnResetRestoresEveryRegister : Prop :=
  ∀ (rest : List HostEvent) (s : State), s.pending = .powerOnReset :: rest →
    ∃ t, step s = .next t ∧ KeepsRegs [] State.reset t ∧ t.port = [] ∧ t.busWait = none ∧ t.pending = rest ∧
      t.reads = s.reads ∧ t.answers = s.answers ∧ t.draws = s.draws

/-! ## The humidity-frame unit -/

/-- R103: FRM_CRC, opcode 0x10, writes the CRC and FSTAT.CRC_MISMATCH, reports OK, and changes nothing else. -/
def Obligations.FrmCrcReportsMismatchOnly : Prop :=
  decodeCommand 0x10#8 = .frmCrc ∧ ∀ s : State, ∃ t, exec .frmCrc s = .next t ∧
    t.crcCalc = crc8 [s.frame[0], s.frame[1], s.frame[2], s.frame[3], s.frame[4], s.frame[5]] ∧
    (t.fMismatch = true ↔ t.crcCalc ≠ s.frame[6]) ∧ t.fstat &&& 0xFD#8 = s.fstat &&& 0xFD#8 ∧ t.result = 0x00#8 ∧
    KeepsRegs [.crcCalc, .fstat, .result] s t ∧ PortQuiet s t ∧ HostSideKept s t

/-- R104 with R101, R102: a frame that is not busy and whose CRC matches or is not asked for is decoded and converted;
the flags, the four decoded registers, RESULT and the frame of FRM_CHECK. -/
def Obligations.FrmCheckAcceptsAndConverts : Prop :=
  ∀ s : State, s.frame[0].toNat < 128 →
    (s.crcEn = false ∨ crc8 [s.frame[0], s.frame[1], s.frame[2], s.frame[3], s.frame[4], s.frame[5]] = s.frame[6]) →
    ∃ t, exec .frmCheck s = .next t ∧
      t.crcCalc = crc8 [s.frame[0], s.frame[1], s.frame[2], s.frame[3], s.frame[4], s.frame[5]] ∧
      t.fstat = (if t.crcCalc = s.frame[6] then 0x04#8 else 0x06#8) ∧
      t.rhRaw.toNat = s.frame[1].toNat * 4096 + s.frame[2].toNat * 16 + s.frame[3].toNat / 16 ∧
      t.tRaw.toNat = s.frame[3].toNat % 16 * 65536 + s.frame[4].toNat * 256 + s.frame[5].toNat ∧
      t.rhQ20.toNat = t.rhRaw.toNat * 100 ∧
      t.tcQ20.toInt = (t.tRaw.toNat : Int) * 200 - 50 * 1048576 ∧
      t.result = 0x00#8 ∧ KeepsRegs [.crcCalc, .fstat, .rhRaw, .tRaw, .rhQ20, .tcQ20, .result] s t ∧
      PortQuiet s t ∧ HostSideKept s t

/-- R104, R175: a busy frame is reported FRAME_BUSY whatever CRC_EN is, else a mismatch with CRC_EN set CRC_ERROR; CRC_CALC
and FSTAT are written, and the decoded registers keep their values. -/
def Obligations.FrmCheckRejectsBusyThenCrc : Prop :=
  ∀ s : State,
    let crc := crc8 [s.frame[0], s.frame[1], s.frame[2], s.frame[3], s.frame[4], s.frame[5]]
    (128 ≤ s.frame[0].toNat → ∃ t, exec .frmCheck s = .next t ∧ t.crcCalc = crc ∧
      t.fstat = (if crc = s.frame[6] then 0x01#8 else 0x03#8) ∧ t.result = 0x06#8 ∧ t.err = latched 0x06#8 s.err ∧
      KeepsRegs [.crcCalc, .fstat, .result, .err] s t ∧ PortQuiet s t ∧ HostSideKept s t) ∧
    (s.frame[0].toNat < 128 → s.crcEn = true → crc ≠ s.frame[6] → ∃ t, exec .frmCheck s = .next t ∧ t.crcCalc = crc ∧
      t.fstat = 0x02#8 ∧ t.result = 0x03#8 ∧ t.err = latched 0x03#8 s.err ∧
      KeepsRegs [.crcCalc, .fstat, .result, .err] s t ∧ PortQuiet s t ∧ HostSideKept s t)

/-- R107: from two states with equal FRAME0–FRAME6, CRC_EN and decoded registers, FRM_CHECK leaves equal CRC_CALC,
FSTAT, RESULT and decoded registers, and issues no bus write. -/
def Obligations.FrmCheckReadsOnlyFrameAndGate : Prop :=
  ∀ s s' t t' : State, s.frame = s'.frame → s.crcEn = s'.crcEn → s.rhRaw = s'.rhRaw → s.tRaw = s'.tRaw →
    s.rhQ20 = s'.rhQ20 → s.tcQ20 = s'.tcQ20 → exec .frmCheck s = .next t → exec .frmCheck s' = .next t' →
    (∀ r ∈ [Reg.crcCalc, .fstat, .result, .rhRaw, .tRaw, .rhQ20, .tcQ20], t.regBytes r = t'.regBytes r) ∧
    PortQuiet s t ∧ PortQuiet s' t'

/-- R105: any single-bit change in FRAME0–FRAME5 changes the frame's CRC. -/
def Obligations.AnySingleBitFlipChangesTheCrc : Prop :=
  ∀ (ds : List Byte) (i k : Nat), ds.length = 6 → i < 6 → k < 8 →
    crc8 (ds.set i (ds.getD i 0x00#8 ^^^ (0x01#8 <<< k))) ≠ crc8 ds

/-- R106: appending the CRC gives a zero remainder. -/
def Obligations.AppendedCrcLeavesZero : Prop :=
  ∀ d0 d1 d2 d3 d4 d5 : Byte, crc8 [d0, d1, d2, d3, d4, d5, crc8 [d0, d1, d2, d3, d4, d5]] = 0x00#8

/-- The check values of spec/95_test_vectors.md section 2.1: CRC-4, CRC-5 and CRC-6. -/
def Obligations.CrcOfPublishedInputs : Prop :=
  crc8 [0x31#8, 0x32#8, 0x33#8, 0x34#8, 0x35#8, 0x36#8, 0x37#8, 0x38#8, 0x39#8] = 0xF7#8 ∧
  crc8 [0xBE#8, 0xEF#8] = 0x92#8 ∧ crc8 [0x1C#8, 0x7D#8, 0x1E#8, 0xC3#8, 0x33#8, 0x33#8] = 0x26#8

/-! ## The compensation unit -/

/-- R121, R122: CAL_LOAD is opcode 0x20; the block is accepted exactly when none of its 11 big-endian values is 0x0000 or 0xFFFF; an accepted
block is installed, a rejected one leaves COEF; B5_FRESH is 0 either way. -/
def Obligations.CalLoadAcceptsExactlyNonSentinels : Prop :=
  decodeCommand 0x20#8 = .calLoad ∧ ∀ s : State,
    let v := fun k : Fin 11 => s.calb[2 * k.val].toNat * 256 + s.calb[2 * k.val + 1].toNat
    ((∀ k, v k ≠ 0 ∧ v k ≠ 65535) → ∃ t, exec .calLoad s = .next t ∧ (∀ k : Fin 11, t.coef[k.val].toNat = v k) ∧
      t.calValid = true ∧ t.b5Fresh = false ∧ t.status &&& 0xFC#8 = s.status &&& 0xFC#8 ∧ t.result = 0x00#8 ∧
      KeepsRegs [.coef, .status, .result] s t ∧ PortQuiet s t ∧ HostSideKept s t) ∧
    ((∃ k, v k = 0 ∨ v k = 65535) → ∃ t, exec .calLoad s = .next t ∧ t.calValid = false ∧ t.b5Fresh = false ∧
      t.status &&& 0xFC#8 = s.status &&& 0xFC#8 ∧ t.result = 0x05#8 ∧ t.err = latched 0x05#8 s.err ∧
      KeepsRegs [.status, .result, .err] s t ∧ PortQuiet s t ∧ HostSideKept s t)

/-- R125 with R123 and R124: with CAL_VALID and a divisor other than 0, CMP_TEMP writes B5 and T10 by the formulas, in
32-bit two's complement with division toward minus infinity, sets B5_FRESH and reports OK. -/
def Obligations.CmpTempComputesB5AndT10 : Prop :=
  ∀ s : State,
    let w := fun x : Int => (BitVec.ofInt 32 x).toInt
    let x1 := (w (((s.ut.toNat : Int) - (s.coef[5].toNat : Int)) * (s.coef[4].toNat : Int))).fdiv 32768
    let den := w (x1 + s.coef[10].toInt)
    s.calValid = true → den ≠ 0 →
    ∃ t, exec .cmpTemp s = .next t ∧
      t.b5.toInt = w (x1 + (w (s.coef[9].toInt * 2048)).fdiv den) ∧
      t.t10.toInt = (w (t.b5.toInt + 8)).fdiv 16 ∧
      t.b5Fresh = true ∧ t.status &&& 0xFD#8 = s.status &&& 0xFD#8 ∧ t.result = 0x00#8 ∧
      KeepsRegs [.b5, .t10, .status, .result] s t ∧ PortQuiet s t ∧ HostSideKept s t

/-- R125: CMP_TEMP reports INVALID_CALIBRATION without CAL_VALID, else DIV_ZERO where X1 + MD is 0; B5 and T10 keep
their values and B5_FRESH is 0. -/
def Obligations.CmpTempFailuresKeepB5 : Prop :=
  ∀ s : State,
    let w := fun x : Int => (BitVec.ofInt 32 x).toInt
    let x1 := (w (((s.ut.toNat : Int) - (s.coef[5].toNat : Int)) * (s.coef[4].toNat : Int))).fdiv 32768
    (s.calValid = false → ∃ t, exec .cmpTemp s = .next t ∧ t.result = 0x05#8 ∧ t.err = latched 0x05#8 s.err ∧
      t.b5Fresh = false ∧ t.status &&& 0xFD#8 = s.status &&& 0xFD#8 ∧
      KeepsRegs [.status, .result, .err] s t ∧ PortQuiet s t ∧ HostSideKept s t) ∧
    (s.calValid = true → w (x1 + s.coef[10].toInt) = 0 → ∃ t, exec .cmpTemp s = .next t ∧ t.result = 0x08#8 ∧
      t.err = latched 0x08#8 s.err ∧ t.b5Fresh = false ∧ t.status &&& 0xFD#8 = s.status &&& 0xFD#8 ∧
      KeepsRegs [.status, .result, .err] s t ∧ PortQuiet s t ∧ HostSideKept s t)

/-- R129: with CAL_VALID and B5_FRESH, CMP_PRES writes UP = UPRAW >> (8 − OSS) and P by `pcomp` of the retained B5, or
reports DIV_ZERO with UP and P kept where `pcomp` raises it; B5_FRESH is 0 either way. -/
def Obligations.CmpPresConsumesB5 : Prop :=
  ∀ s : State, s.calValid = true → s.b5Fresh = true →
    let upv := s.upraw.toNat / 2 ^ (8 - s.oss)
    (∀ pv, pcomp .floor s.coef s.b5.toInt (upv : Int) s.oss = some pv → ∃ t, exec .cmpPres s = .next t ∧
      t.up.toNat = upv ∧ t.p = BitVec.ofInt 32 pv ∧ t.b5Fresh = false ∧
      t.status &&& 0xFD#8 = s.status &&& 0xFD#8 ∧ t.result = 0x00#8 ∧
      KeepsRegs [.up, .p, .status, .result] s t ∧ PortQuiet s t ∧ HostSideKept s t) ∧
    (pcomp .floor s.coef s.b5.toInt (upv : Int) s.oss = none → ∃ t, exec .cmpPres s = .next t ∧
      t.result = 0x08#8 ∧ t.err = latched 0x08#8 s.err ∧ t.b5Fresh = false ∧
      t.status &&& 0xFD#8 = s.status &&& 0xFD#8 ∧
      KeepsRegs [.status, .result, .err] s t ∧ PortQuiet s t ∧ HostSideKept s t)

/-- R129, R175: without CAL_VALID CMP_PRES reports INVALID_CALIBRATION, else without B5_FRESH STALE_B5; B5_FRESH is 0, the
other bits of STATUS, UP and P and everything else keep their values. -/
def Obligations.CmpPresRefusesUncalibratedThenStale : Prop :=
  ∀ s : State,
    (s.calValid = false → ∃ t, exec .cmpPres s = .next t ∧ t.result = 0x05#8 ∧ t.err = latched 0x05#8 s.err ∧
      t.b5Fresh = false ∧ t.status &&& 0xFD#8 = s.status &&& 0xFD#8 ∧
      KeepsRegs [.status, .result, .err] s t ∧ PortQuiet s t ∧ HostSideKept s t) ∧
    (s.calValid = true → s.b5Fresh = false → ∃ t, exec .cmpPres s = .next t ∧ t.result = 0x07#8 ∧
      t.err = latched 0x07#8 s.err ∧ t.b5Fresh = false ∧ t.status &&& 0xFD#8 = s.status &&& 0xFD#8 ∧
      KeepsRegs [.status, .result, .err] s t ∧ PortQuiet s t ∧ HostSideKept s t)

/-- R126, R128, R118: `pcomp` is the pressure datapath on 32-bit words: two's complement sums and products that wrap,
arithmetic right shifts for the signed divisions by powers of two, and unsigned B4 and B7. -/
def Obligations.PressureIsThe32BitDatapath : Prop :=
  ∀ (coef : Vector (BitVec 16) 11) (b5 upv : BitVec 32) (oss : Nat), oss < 4 →
    let s16 := fun k : Fin 11 => coef[k.val].signExtend 32
    let u16 := fun k : Fin 11 => coef[k.val].zeroExtend 32
    let b6 := b5 - 4000#32
    let sq := (b6 * b6).sshiftRight 12
    let x3 := (s16 7 * sq).sshiftRight 11 + (s16 1 * b6).sshiftRight 11
    let b3 := (((s16 0 * 4#32 + x3) <<< oss) + 2#32).sshiftRight 2
    let y3 := ((s16 2 * b6).sshiftRight 13 + (s16 6 * sq).sshiftRight 16 + 2#32).sshiftRight 2
    let b4 := (u16 3 * (y3 + 32768#32)) >>> 15
    let b7 := (upv - b3) * (50000#32 >>> oss)
    let p := if b7 < 0x80000000#32 then (b7 * 2#32) / b4 else (b7 / b4) * 2#32
    let q := p.sshiftRight 8
    let z1 := (q * q * 3038#32).sshiftRight 16
    let z2 := (-7357#32 * p).sshiftRight 16
    pcomp .floor coef b5.toInt (upv.toNat : Int) oss =
      if b4 = 0#32 then none else some (p + (z1 + z2 + 3791#32).sshiftRight 4).toInt

/-- The BMP180 worked example of spec/95_test_vectors.md CMP-1: from any state that holds its calibration bytes, UT =
27898, UPRAW = 0x5D2300 and OSS = 0, CAL_LOAD, CMP_TEMP and CMP_PRES give B5 = 2399, T10 = 150 and P = 69964. -/
def Obligations.DatasheetExampleIsReproduced : Prop :=
  ∀ s : State,
    s.calb.toList = [0x01#8, 0x98#8, 0xFF#8, 0xB8#8, 0xC7#8, 0xD1#8, 0x7F#8, 0xE5#8, 0x7F#8, 0xF5#8, 0x5A#8, 0x71#8,
      0x18#8, 0x2E#8, 0x00#8, 0x04#8, 0x80#8, 0x00#8, 0xDD#8, 0xF9#8, 0x0B#8, 0x34#8] →
    s.ut = 27898#16 → s.upraw = 0x5D2300#24 → s.oss = 0 →
    ∃ u, execAll [.calLoad, .cmpTemp, .cmpPres] s = some u ∧ u.b5.toInt = 2399 ∧ u.t10.toInt = 150 ∧
      u.up.toNat = 23843 ∧ u.p.toInt = 69964 ∧ u.result = 0x00#8 ∧ u.err = s.err

/-- R132: from states with equal COEF and UT a CMP_TEMP that succeeds gives equal B5 and T10; from states with equal
COEF, B5, UPRAW and OSS a CMP_PRES that succeeds gives equal UP and P. -/
def Obligations.CompensationDependsOnItsInputsAlone : Prop :=
  (∀ s s' t t' : State, s.coef = s'.coef → s.ut = s'.ut → exec .cmpTemp s = .next t → exec .cmpTemp s' = .next t' →
    t.result = 0x00#8 → t'.result = 0x00#8 → t.b5 = t'.b5 ∧ t.t10 = t'.t10) ∧
  (∀ s s' t t' : State, s.coef = s'.coef → s.b5 = s'.b5 → s.upraw = s'.upraw → s.oss = s'.oss →
    exec .cmpPres s = .next t → exec .cmpPres s' = .next t' → t.result = 0x00#8 → t'.result = 0x00#8 →
    t.up = t'.up ∧ t.p = t'.p)

/-- R26: B5_FRESH is 1 after an instruction only if that was a CMP_TEMP that succeeded, or it was 1 before and the
instruction is none of those that clear it. -/
def Obligations.OnlyCmpTempMakesB5Fresh : Prop :=
  ∀ (i : Instr) (s t : State), exec i s = .next t → t.b5Fresh = true →
    (i.performed = .cmpTemp ∧ t.result = 0x00#8) ∨ (i.touchesFresh = false ∧ s.b5Fresh = true)

/-- R133: over any sequence of instructions from a state whose B5 is not fresh, a CMP_PRES that then succeeds was
preceded by a CMP_TEMP that succeeded, uses the B5 it left, and no CMP_TEMP, CMP_PRES, CAL_LOAD, SRST or write to UT
lies between. -/
def Obligations.EverySuccessfulPressureUsesTheLatestTemperature : Prop :=
  ∀ (l : List Instr) (s u t : State), s.b5Fresh = false → execAll l s = some u → exec .cmpPres u = .next t →
    t.result = 0x00#8 →
    ∃ a i b m n, l = a ++ i :: b ∧ execAll a s = some m ∧ exec i m = .next n ∧ i.performed = .cmpTemp ∧
      n.result = 0x00#8 ∧ u.b5 = n.b5 ∧ ∀ k ∈ b, k.touchesFresh = false

/-! ## The nibble-framing transmitter -/

/-- R161, R150: in the four bus bytes of `b`, the second and fourth are the first and third with EN cleared, bits 3..0
are 0x0C or 0x08 with RS, and bits 7..4 are the high nibble and then the low one. -/
def Obligations.BusBytesFrameTheNibbles : Prop :=
  ∀ (b rs : Byte), rs = 0x00#8 ∨ rs = 0x01#8 →
    (nibBytes b rs)[1] = (nibBytes b rs)[0] &&& 0xFB#8 ∧ (nibBytes b rs)[3] = (nibBytes b rs)[2] &&& 0xFB#8 ∧
    (nibBytes b rs)[0] &&& 0x0F#8 = 0x0C#8 ||| rs ∧ (nibBytes b rs)[2] &&& 0x0F#8 = 0x0C#8 ||| rs ∧
    (nibBytes b rs)[1] &&& 0x0F#8 = 0x08#8 ||| rs ∧ (nibBytes b rs)[3] &&& 0x0F#8 = 0x08#8 ||| rs ∧
    (nibBytes b rs)[0].toNat / 16 = b.toNat / 16 ∧ (nibBytes b rs)[2].toNat / 16 = b.toNat % 16

/-- R151, R152: with every write ACKed, LCD_CMD and LCD_DATA send TXDATA with RS = 0 and 1, leave the four bytes in
TXB0–TXB3 and 4 in TXN, report OK, and change no other register. -/
def Obligations.LcdCommandsSendTxdata : Prop :=
  ∀ (i : Instr) (rs : Nat) (s : State), (i, rs) ∈ [(Instr.lcdCmd, 0), (.lcdData, 1)] → s.FourAcks → s.busWait = none →
    ∃ t, exec i s = .next t ∧ t.port = s.port ++ ackedEvents (wireBytes s.txdata.toNat rs) ∧
      t.txb.toList.map BitVec.toNat = wireBytes s.txdata.toNat rs ∧ t.txn = 0x04#8 ∧ t.result = 0x00#8 ∧
      t.busWait = none ∧ KeepsRegs [.txb, .txn, .result] s t ∧ HostSideKept s t

/-- R153–R158: with every write ACKed, a toggle sets or clears its DCS bit, sends 0x08 | DCS as a command, reports OK,
and changes no other register. -/
def Obligations.TogglesResendTheWholeDcs : Prop :=
  ∀ (i : Instr) (mask : Byte) (on : Bool) (s : State), (i, mask, on) ∈ toggleTable → s.FourAcks → s.busWait = none →
    ∃ t, exec i s = .next t ∧ t.dcs = toggledDcs mask on s.dcs ∧
      t.port = s.port ++ ackedEvents (wireBytes (0x08#8 ||| t.dcs).toNat 0) ∧
      t.txb.toList.map BitVec.toNat = wireBytes (0x08#8 ||| t.dcs).toNat 0 ∧ t.txn = 0x04#8 ∧ t.result = 0x00#8 ∧
      t.busWait = none ∧ KeepsRegs [.dcs, .txb, .txn, .result] s t ∧ HostSideKept s t

/-- R159: with row 0 or 1, a column up to 0x27 and every write ACKed, SET_CURSOR sends 0x80 | address as a command,
address = column or 0x40 + column, reports OK, and changes no other register. -/
def Obligations.SetCursorSendsTheDdramAddress : Prop :=
  ∀ s : State, s.curRow.toNat ≤ 1 → s.curCol.toNat ≤ 39 → s.FourAcks → s.busWait = none →
    let byte := 128 + 64 * s.curRow.toNat + s.curCol.toNat
    ∃ t, exec .setCursor s = .next t ∧ t.port = s.port ++ ackedEvents (wireBytes byte 0) ∧
      t.txb.toList.map BitVec.toNat = wireBytes byte 0 ∧ t.txn = 0x04#8 ∧ t.result = 0x00#8 ∧ t.busWait = none ∧
      KeepsRegs [.txb, .txn, .result] s t ∧ HostSideKept s t

/-- R159: any other row, and a column above 0x27, is INVALID_ARGUMENT: TXN is 0, TXB0–TXB3 keep their values, and
nothing goes to the port. -/
def Obligations.SetCursorRejectsOutOfRange : Prop :=
  ∀ s : State, 2 ≤ s.curRow.toNat ∨ 40 ≤ s.curCol.toNat →
    ∃ t, exec .setCursor s = .next t ∧ t.result = 0x04#8 ∧ t.err = latched 0x04#8 s.err ∧ t.txn = 0x00#8 ∧
      KeepsRegs [.txn, .result, .err] s t ∧ PortQuiet s t ∧ HostSideKept s t

/-- R150, R172: a NIB command whose `j`-th bus write is the first NACKed issues no later write, reports BUS_FAILURE, has
`j` in TXN and all four bytes in TXB0–TXB3; a toggle keeps the DCS it wrote before sending (R153), and any other NIB
command leaves DCS alone. -/
def Obligations.FirstNackStopsTheCommand : Prop :=
  ∀ (i : Instr) (s : State) (b : Byte) (rs j : Nat), Sends i s b rs → j < 4 → s.AcksBefore j →
    s.answerAt j = some .nack → s.busWait = none →
    ∃ t, exec i s = .next t ∧
      t.port = s.port ++ ackedEvents ((wireBytes b.toNat rs).take j) ++
        [⟨0x4E#8, BitVec.ofNat 8 ((wireBytes b.toNat rs).getD j 0), .nack⟩] ∧
      t.txb.toList.map BitVec.toNat = wireBytes b.toNat rs ∧ t.txn.toNat = j ∧
      (∀ mask on, (i, mask, on) ∈ toggleTable → t.dcs = toggledDcs mask on s.dcs) ∧
      ((∀ mask on, (i, mask, on) ∉ toggleTable) → t.dcs = s.dcs) ∧ t.result = 0x01#8 ∧
      t.err = latched 0x01#8 s.err ∧ t.busWait = none ∧ KeepsRegs [.dcs, .txb, .txn, .result, .err] s t ∧
      HostSideKept s t

/-- R198: a NIB command whose `j`-th bus write is never answered does not complete: RESULT and ERR are not written, and
the state has no successor. How the stuck state is held is the model's choice (log entry 4). -/
def Obligations.UnansweredWriteIsAStuckState : Prop :=
  (∀ (i : Instr) (s : State) (b : Byte) (rs j : Nat), Sends i s b rs → j < 4 → s.AcksBefore j → s.answerAt j = none →
    ¬ s.ResetComes → ∃ t, exec i s = .next t ∧ t.Stuck ∧ t.port = s.port ++ ackedEvents ((wireBytes b.toNat rs).take j) ∧
      t.txn.toNat = j ∧ t.result = s.result ∧ t.err = s.err ∧ step t = .fault .busNeverAnswered) ∧
  (∀ t : State, t.Stuck → step t = .fault .busNeverAnswered)

/-- R160: over any sequence of toggles, whatever the answers, a DCS bit that none of them names keeps its value. -/
def Obligations.TogglesKeepTheOtherBits : Prop :=
  ∀ (l : List (Instr × Byte × Bool)) (k : Nat) (s t : State), (∀ x ∈ l, x ∈ toggleTable) → k < 3 →
    (∀ x ∈ l, x.2.1.getLsbD k = false) → execAll (l.map (·.1)) s = some t → t.dcs.getLsbD k = s.dcs.getLsbD k

/-- R50, R61: every instruction only appends to the output history, each event a write to 0x4E, and an instruction that
performs no NIB command appends nothing. -/
def Obligations.OnlyNibCommandsWriteThePort : Prop :=
  ∀ (i : Instr) (s t : State), exec i s = .next t →
    (∃ es : List BusEvent, t.port = s.port ++ es ∧ es.length ≤ 4 ∧ ∀ e ∈ es, e.device = 0x4E#8) ∧
    (i.performed ∉ nibCommands → PortQuiet s t)

/-! ## Host accesses -/

/-- R55, R51: a HostRead returns the byte at its address and changes no register, whatever the address. That the answer
is recorded in `reads` is the model's choice (log entry 5). -/
def Obligations.HostReadChangesNoRegister : Prop :=
  ∀ (a : Byte) (s : State), ∃ t, exec (.hostRd a) s = .next t ∧ t.reads = s.reads ++ [(a, s.hostRead a)] ∧
    KeepsRegs [] s t ∧ PortQuiet s t ∧ t.pending = s.pending

/-- R52, R24: the multi-byte registers are big-endian at the addresses of the map. -/
def Obligations.MultiByteRegistersAreBigEndian : Prop :=
  ∀ s : State,
    s.memRead 0x19#8 3 = s.rhRaw.toNat ∧ s.memRead 0x1C#8 3 = s.tRaw.toNat ∧ s.memRead 0x20#8 4 = s.rhQ20.toNat ∧
    s.memRead 0x24#8 4 = s.tcQ20.toNat ∧ s.memRead 0x48#8 2 = s.ut.toNat ∧ s.memRead 0x4A#8 3 = s.upraw.toNat ∧
    (∀ k : Fin 11, s.memRead (0x50#8 + BitVec.ofNat 8 (2 * k.val)) 2 = s.coef[k.val].toNat) ∧
    s.memRead 0x68#8 4 = s.b5.toNat ∧ s.memRead 0x6C#8 4 = s.t10.toNat ∧ s.memRead 0x70#8 4 = s.p.toNat ∧
    s.memRead 0x74#8 3 = s.up.toNat

/-- R24: the one-byte registers and the byte arrays at the addresses of the map. -/
def Obligations.OneByteRegistersReadAtTheirAddresses : Prop :=
  ∀ s : State,
    s.hostRead 0x00#8 = s.ctrl ∧ s.hostRead 0x01#8 = s.status ∧ s.hostRead 0x02#8 = 0x00#8 ∧
    s.hostRead 0x03#8 = s.result ∧ s.hostRead 0x04#8 = s.err ∧
    (∀ k : Fin 7, s.hostRead (0x10#8 + BitVec.ofNat 8 k.val) = s.frame[k.val]) ∧
    s.hostRead 0x17#8 = s.fstat ∧ s.hostRead 0x18#8 = s.crcCalc ∧
    (∀ k : Fin 22, s.hostRead (0x30#8 + BitVec.ofNat 8 k.val) = s.calb[k.val]) ∧
    s.hostRead 0x80#8 = s.dcs ∧ s.hostRead 0x81#8 = s.txdata ∧ s.hostRead 0x82#8 = s.curRow ∧
    s.hostRead 0x83#8 = s.curCol ∧ (∀ k : Fin 4, s.hostRead (0x84#8 + BitVec.ofNat 8 k.val) = s.txb[k.val]) ∧
    s.hostRead 0x88#8 = s.txn

/-- R47: a reserved address reads 0x00 and ignores writes, a read-only register ignores writes, and the reserved bits of
CTRL, STATUS, FSTAT and DCS read as 0 (in the states the invariants allow) and ignore writes. -/
def Obligations.ReservedSpaceReadsZeroAndIgnoresWrites : Prop :=
  ∀ (a b : Byte) (s : State),
    (0x05 ≤ a.toNat ∧ a.toNat ≤ 0x0F ∨ a.toNat = 0x1F ∨ 0x28 ≤ a.toNat ∧ a.toNat ≤ 0x2F ∨
      0x46 ≤ a.toNat ∧ a.toNat ≤ 0x47 ∨ 0x4D ≤ a.toNat ∧ a.toNat ≤ 0x4F ∨ 0x66 ≤ a.toNat ∧ a.toNat ≤ 0x67 ∨
      0x77 ≤ a.toNat ∧ a.toNat ≤ 0x7F ∨ 0x89 ≤ a.toNat →
      s.hostRead a = 0x00#8 ∧ exec (.hostWr a b) s = .next s) ∧
    (a.toNat = 0x01 ∨ a.toNat = 0x03 ∨ 0x17 ≤ a.toNat ∧ a.toNat ≤ 0x1E ∨ 0x20 ≤ a.toNat ∧ a.toNat ≤ 0x27 ∨
      0x50 ≤ a.toNat ∧ a.toNat ≤ 0x65 ∨ 0x68 ≤ a.toNat ∧ a.toNat ≤ 0x76 ∨ 0x84 ≤ a.toNat ∧ a.toNat ≤ 0x88 →
      exec (.hostWr a b) s = .next s) ∧
    exec (.hostWr 0x00#8 b) s = .next { s with ctrl := b &&& 0x07#8 } ∧
    exec (.hostWr 0x80#8 b) s = .next { s with dcs := b &&& 0x07#8 } ∧
    (s.InRange → s.ReservedClear →
      s.hostRead 0x00#8 &&& 0xF8#8 = 0x00#8 ∧ s.hostRead 0x01#8 &&& 0xFC#8 = 0x00#8 ∧
      s.hostRead 0x17#8 &&& 0xF8#8 = 0x00#8 ∧ s.hostRead 0x80#8 &&& 0xF8#8 = 0x00#8)

/-- R51, R55, R30, R35–R37, R43, R44: a HostWrite to a byte of FRAME, CALB, UT, UPRAW, TXDATA, CUR_ROW or CUR_COL stores
it: the address reads it back, every other address reads as before, and a write to UT also clears B5_FRESH and no
other bit of STATUS. -/
def Obligations.HostWriteStoresOneByte : Prop :=
  ∀ (a b : Byte) (s : State),
    (0x10 ≤ a.toNat ∧ a.toNat ≤ 0x16 ∨ 0x30 ≤ a.toNat ∧ a.toNat ≤ 0x45 ∨ 0x4A ≤ a.toNat ∧ a.toNat ≤ 0x4C ∨
      0x81 ≤ a.toNat ∧ a.toNat ≤ 0x83 →
      ∃ t, exec (.hostWr a b) s = .next t ∧ t.hostRead a = b ∧ (∀ x, x ≠ a → t.hostRead x = s.hostRead x) ∧
        PortQuiet s t ∧ HostSideKept s t) ∧
    (0x48 ≤ a.toNat ∧ a.toNat ≤ 0x49 →
      ∃ t, exec (.hostWr a b) s = .next t ∧ t.hostRead a = b ∧ t.hostRead 0x01#8 = s.hostRead 0x01#8 &&& 0xFD#8 ∧
        (∀ x, x ≠ a → x ≠ 0x01#8 → t.hostRead x = s.hostRead x) ∧ PortQuiet s t ∧ HostSideKept s t)

/-- R27, R60, R93: a HostWrite of `c` to CMD is the command whose opcode is `c`. -/
def Obligations.WriteToCmdPerformsTheCommand : Prop :=
  ∀ (c : Byte) (s : State), exec (.hostWr 0x02#8 c) s = exec (decodeCommand c) s

/-! ## Whole-machine rules -/

/-- R72: a command writes no register but those its line of the opcode map lists, and takes no host access. -/
def Obligations.CommandsWriteOnlyTheirListedRegisters : Prop :=
  ∀ (i : Instr) (s t : State), i.isCommand = true → exec i s = .next t →
    KeepsRegs i.writtenRegs s t ∧ HostSideKept s t

/-- R48: every step keeps the invariants. -/
def Obligations.EveryStepKeepsTheRegistersInRange : Prop :=
  ∀ s t : State, s.InRange → step s = .next t → t.InRange

/-- R48: the reset state has the invariants. -/
def Obligations.ResetIsInRange : Prop := State.reset.InRange

/-- R26, R31, R34: every step keeps the reserved bits of STATUS and FSTAT at 0 and the converted values in range. -/
def Obligations.EveryStepKeepsReservedBitsClear : Prop :=
  ∀ s t : State, s.ReservedClear → step s = .next t → t.ReservedClear

/-- R171, R28: no step leaves TIMEOUT or a reserved code in RESULT or ERR. -/
def Obligations.EveryStepKeepsCodesProduced : Prop :=
  ∀ s t : State, s.CodesProduced → step s = .next t → t.CodesProduced

/-- R121, R122: every step keeps that CAL_VALID = 1 excludes a sentinel in COEF. -/
def Obligations.EveryStepKeepsCalibrationUsable : Prop :=
  ∀ s t : State, s.CalibrationUsable → step s = .next t → t.CalibrationUsable

/-- The reset state has reserved bits clear, produced codes, and no usable calibration claimed. -/
def Obligations.ResetMeetsTheOtherInvariants : Prop :=
  State.reset.ReservedClear ∧ State.reset.CodesProduced ∧ State.reset.CalibrationUsable
end

