-- ==== Sys2Proof/Laws/Arithmetic.lean ====
section
/-! SUPPORT. The width functions of R8 as 32-bit words: narrowing, sums and products, division by a power of two. -/

namespace Sys2Proof.Machine

theorem s32_eq_bmod (v : Int) : s32 v = v.bmod (2 ^ 32) := by
  simp only [s32, u32, Int.bmod]
  norm_num
  split_ifs <;> omega

/-- `s32` is the value of the 32-bit word. -/
theorem s32_eq_toInt (v : Int) : s32 v = (BitVec.ofInt 32 v).toInt := by rw [s32_eq_bmod, BitVec.toInt_ofInt]

/-- `u32` is the unsigned value of the 32-bit word. -/
theorem u32_eq_toNat (v : Int) : u32 v = ((BitVec.ofInt 32 v).toNat : Int) := by
  rw [BitVec.toNat_ofInt]
  simp only [u32]
  omega

theorem ofInt_s32 (v : Int) : BitVec.ofInt 32 (s32 v) = BitVec.ofInt 32 v := by rw [s32_eq_toInt, BitVec.ofInt_toInt]

theorem ofInt_u32 (v : Int) : BitVec.ofInt 32 (u32 v) = BitVec.ofInt 32 v := by
  apply BitVec.eq_of_toNat_eq
  rw [BitVec.toNat_ofInt, BitVec.toNat_ofInt, u32]
  norm_num

theorem s32_add (a b : BitVec 32) : s32 (a.toInt + b.toInt) = (a + b).toInt := by rw [s32_eq_bmod, BitVec.toInt_add]

theorem s32_sub (a b : BitVec 32) : s32 (a.toInt - b.toInt) = (a - b).toInt := by rw [s32_eq_bmod, BitVec.toInt_sub]

theorem s32_mul (a b : BitVec 32) : s32 (a.toInt * b.toInt) = (a * b).toInt := by rw [s32_eq_bmod, BitVec.toInt_mul]

/-- Division toward minus infinity by a power of two is the arithmetic right shift (R8, R118). -/
theorem sdiv_floor_pow (a : BitVec 32) (k : Nat) (d : Int) (hd : d = 2 ^ k) :
    sdiv .floor a.toInt d = (a.sshiftRight k).toInt := by
  rw [BitVec.toInt_sshiftRight, Int.shiftRight_eq_div_pow, sdiv,
    Int.fdiv_eq_ediv_of_nonneg _ (by rw [hd]; positivity), hd]
  simp

theorem sext16_eq (v : BitVec 16) : sext16 v = (v.signExtend 32).toInt :=
  (BitVec.toInt_signExtend_of_le (by omega)).symm

end Sys2Proof.Machine
end

