-- ==== Sys2Proof/Laws/State.lean ====
section
/-! SUPPORT. Each named update of the state read field by field: the fields it writes, and that it keeps the others. -/

namespace Sys2Proof.Machine

variable (s : State)

@[simp] theorem endCommand_ctrl (c : ResultCode) : (s.endCommand c).ctrl = s.ctrl := rfl
@[simp] theorem endCommand_status (c : ResultCode) : (s.endCommand c).status = s.status := rfl
@[simp] theorem endCommand_result (c : ResultCode) : (s.endCommand c).result = c.byte := rfl
@[simp] theorem endCommand_err (c : ResultCode) : (s.endCommand c).err = if c.byte ≠ 0x00#8 ∧ s.err = 0x00#8 then c.byte else s.err := rfl
@[simp] theorem endCommand_frame (c : ResultCode) : (s.endCommand c).frame = s.frame := rfl
@[simp] theorem endCommand_fstat (c : ResultCode) : (s.endCommand c).fstat = s.fstat := rfl
@[simp] theorem endCommand_crcCalc (c : ResultCode) : (s.endCommand c).crcCalc = s.crcCalc := rfl
@[simp] theorem endCommand_rhRaw (c : ResultCode) : (s.endCommand c).rhRaw = s.rhRaw := rfl
@[simp] theorem endCommand_tRaw (c : ResultCode) : (s.endCommand c).tRaw = s.tRaw := rfl
@[simp] theorem endCommand_rhQ20 (c : ResultCode) : (s.endCommand c).rhQ20 = s.rhQ20 := rfl
@[simp] theorem endCommand_tcQ20 (c : ResultCode) : (s.endCommand c).tcQ20 = s.tcQ20 := rfl
@[simp] theorem endCommand_calb (c : ResultCode) : (s.endCommand c).calb = s.calb := rfl
@[simp] theorem endCommand_ut (c : ResultCode) : (s.endCommand c).ut = s.ut := rfl
@[simp] theorem endCommand_upraw (c : ResultCode) : (s.endCommand c).upraw = s.upraw := rfl
@[simp] theorem endCommand_coef (c : ResultCode) : (s.endCommand c).coef = s.coef := rfl
@[simp] theorem endCommand_b5 (c : ResultCode) : (s.endCommand c).b5 = s.b5 := rfl
@[simp] theorem endCommand_t10 (c : ResultCode) : (s.endCommand c).t10 = s.t10 := rfl
@[simp] theorem endCommand_p (c : ResultCode) : (s.endCommand c).p = s.p := rfl
@[simp] theorem endCommand_up (c : ResultCode) : (s.endCommand c).up = s.up := rfl
@[simp] theorem endCommand_dcs (c : ResultCode) : (s.endCommand c).dcs = s.dcs := rfl
@[simp] theorem endCommand_txdata (c : ResultCode) : (s.endCommand c).txdata = s.txdata := rfl
@[simp] theorem endCommand_curRow (c : ResultCode) : (s.endCommand c).curRow = s.curRow := rfl
@[simp] theorem endCommand_curCol (c : ResultCode) : (s.endCommand c).curCol = s.curCol := rfl
@[simp] theorem endCommand_txb (c : ResultCode) : (s.endCommand c).txb = s.txb := rfl
@[simp] theorem endCommand_txn (c : ResultCode) : (s.endCommand c).txn = s.txn := rfl
@[simp] theorem endCommand_port (c : ResultCode) : (s.endCommand c).port = s.port := rfl
@[simp] theorem endCommand_pending (c : ResultCode) : (s.endCommand c).pending = s.pending := rfl
@[simp] theorem endCommand_reads (c : ResultCode) : (s.endCommand c).reads = s.reads := rfl
@[simp] theorem endCommand_answers (c : ResultCode) : (s.endCommand c).answers = s.answers := rfl
@[simp] theorem endCommand_draws (c : ResultCode) : (s.endCommand c).draws = s.draws := rfl
@[simp] theorem endCommand_busWait (c : ResultCode) : (s.endCommand c).busWait = s.busWait := rfl

@[simp] theorem setB5Fresh_ctrl (b : Bool) : (s.setB5Fresh b).ctrl = s.ctrl := rfl
@[simp] theorem setB5Fresh_status (b : Bool) : (s.setB5Fresh b).status = setBit s.status 1 b := rfl
@[simp] theorem setB5Fresh_result (b : Bool) : (s.setB5Fresh b).result = s.result := rfl
@[simp] theorem setB5Fresh_err (b : Bool) : (s.setB5Fresh b).err = s.err := rfl
@[simp] theorem setB5Fresh_frame (b : Bool) : (s.setB5Fresh b).frame = s.frame := rfl
@[simp] theorem setB5Fresh_fstat (b : Bool) : (s.setB5Fresh b).fstat = s.fstat := rfl
@[simp] theorem setB5Fresh_crcCalc (b : Bool) : (s.setB5Fresh b).crcCalc = s.crcCalc := rfl
@[simp] theorem setB5Fresh_rhRaw (b : Bool) : (s.setB5Fresh b).rhRaw = s.rhRaw := rfl
@[simp] theorem setB5Fresh_tRaw (b : Bool) : (s.setB5Fresh b).tRaw = s.tRaw := rfl
@[simp] theorem setB5Fresh_rhQ20 (b : Bool) : (s.setB5Fresh b).rhQ20 = s.rhQ20 := rfl
@[simp] theorem setB5Fresh_tcQ20 (b : Bool) : (s.setB5Fresh b).tcQ20 = s.tcQ20 := rfl
@[simp] theorem setB5Fresh_calb (b : Bool) : (s.setB5Fresh b).calb = s.calb := rfl
@[simp] theorem setB5Fresh_ut (b : Bool) : (s.setB5Fresh b).ut = s.ut := rfl
@[simp] theorem setB5Fresh_upraw (b : Bool) : (s.setB5Fresh b).upraw = s.upraw := rfl
@[simp] theorem setB5Fresh_coef (b : Bool) : (s.setB5Fresh b).coef = s.coef := rfl
@[simp] theorem setB5Fresh_b5 (b : Bool) : (s.setB5Fresh b).b5 = s.b5 := rfl
@[simp] theorem setB5Fresh_t10 (b : Bool) : (s.setB5Fresh b).t10 = s.t10 := rfl
@[simp] theorem setB5Fresh_p (b : Bool) : (s.setB5Fresh b).p = s.p := rfl
@[simp] theorem setB5Fresh_up (b : Bool) : (s.setB5Fresh b).up = s.up := rfl
@[simp] theorem setB5Fresh_dcs (b : Bool) : (s.setB5Fresh b).dcs = s.dcs := rfl
@[simp] theorem setB5Fresh_txdata (b : Bool) : (s.setB5Fresh b).txdata = s.txdata := rfl
@[simp] theorem setB5Fresh_curRow (b : Bool) : (s.setB5Fresh b).curRow = s.curRow := rfl
@[simp] theorem setB5Fresh_curCol (b : Bool) : (s.setB5Fresh b).curCol = s.curCol := rfl
@[simp] theorem setB5Fresh_txb (b : Bool) : (s.setB5Fresh b).txb = s.txb := rfl
@[simp] theorem setB5Fresh_txn (b : Bool) : (s.setB5Fresh b).txn = s.txn := rfl
@[simp] theorem setB5Fresh_port (b : Bool) : (s.setB5Fresh b).port = s.port := rfl
@[simp] theorem setB5Fresh_pending (b : Bool) : (s.setB5Fresh b).pending = s.pending := rfl
@[simp] theorem setB5Fresh_reads (b : Bool) : (s.setB5Fresh b).reads = s.reads := rfl
@[simp] theorem setB5Fresh_answers (b : Bool) : (s.setB5Fresh b).answers = s.answers := rfl
@[simp] theorem setB5Fresh_draws (b : Bool) : (s.setB5Fresh b).draws = s.draws := rfl
@[simp] theorem setB5Fresh_busWait (b : Bool) : (s.setB5Fresh b).busWait = s.busWait := rfl

@[simp] theorem setCalValid_ctrl (b : Bool) : (s.setCalValid b).ctrl = s.ctrl := rfl
@[simp] theorem setCalValid_status (b : Bool) : (s.setCalValid b).status = setBit s.status 0 b := rfl
@[simp] theorem setCalValid_result (b : Bool) : (s.setCalValid b).result = s.result := rfl
@[simp] theorem setCalValid_err (b : Bool) : (s.setCalValid b).err = s.err := rfl
@[simp] theorem setCalValid_frame (b : Bool) : (s.setCalValid b).frame = s.frame := rfl
@[simp] theorem setCalValid_fstat (b : Bool) : (s.setCalValid b).fstat = s.fstat := rfl
@[simp] theorem setCalValid_crcCalc (b : Bool) : (s.setCalValid b).crcCalc = s.crcCalc := rfl
@[simp] theorem setCalValid_rhRaw (b : Bool) : (s.setCalValid b).rhRaw = s.rhRaw := rfl
@[simp] theorem setCalValid_tRaw (b : Bool) : (s.setCalValid b).tRaw = s.tRaw := rfl
@[simp] theorem setCalValid_rhQ20 (b : Bool) : (s.setCalValid b).rhQ20 = s.rhQ20 := rfl
@[simp] theorem setCalValid_tcQ20 (b : Bool) : (s.setCalValid b).tcQ20 = s.tcQ20 := rfl
@[simp] theorem setCalValid_calb (b : Bool) : (s.setCalValid b).calb = s.calb := rfl
@[simp] theorem setCalValid_ut (b : Bool) : (s.setCalValid b).ut = s.ut := rfl
@[simp] theorem setCalValid_upraw (b : Bool) : (s.setCalValid b).upraw = s.upraw := rfl
@[simp] theorem setCalValid_coef (b : Bool) : (s.setCalValid b).coef = s.coef := rfl
@[simp] theorem setCalValid_b5 (b : Bool) : (s.setCalValid b).b5 = s.b5 := rfl
@[simp] theorem setCalValid_t10 (b : Bool) : (s.setCalValid b).t10 = s.t10 := rfl
@[simp] theorem setCalValid_p (b : Bool) : (s.setCalValid b).p = s.p := rfl
@[simp] theorem setCalValid_up (b : Bool) : (s.setCalValid b).up = s.up := rfl
@[simp] theorem setCalValid_dcs (b : Bool) : (s.setCalValid b).dcs = s.dcs := rfl
@[simp] theorem setCalValid_txdata (b : Bool) : (s.setCalValid b).txdata = s.txdata := rfl
@[simp] theorem setCalValid_curRow (b : Bool) : (s.setCalValid b).curRow = s.curRow := rfl
@[simp] theorem setCalValid_curCol (b : Bool) : (s.setCalValid b).curCol = s.curCol := rfl
@[simp] theorem setCalValid_txb (b : Bool) : (s.setCalValid b).txb = s.txb := rfl
@[simp] theorem setCalValid_txn (b : Bool) : (s.setCalValid b).txn = s.txn := rfl
@[simp] theorem setCalValid_port (b : Bool) : (s.setCalValid b).port = s.port := rfl
@[simp] theorem setCalValid_pending (b : Bool) : (s.setCalValid b).pending = s.pending := rfl
@[simp] theorem setCalValid_reads (b : Bool) : (s.setCalValid b).reads = s.reads := rfl
@[simp] theorem setCalValid_answers (b : Bool) : (s.setCalValid b).answers = s.answers := rfl
@[simp] theorem setCalValid_draws (b : Bool) : (s.setCalValid b).draws = s.draws := rfl
@[simp] theorem setCalValid_busWait (b : Bool) : (s.setCalValid b).busWait = s.busWait := rfl

@[simp] theorem setMismatch_ctrl (b : Bool) : (s.setMismatch b).ctrl = s.ctrl := rfl
@[simp] theorem setMismatch_status (b : Bool) : (s.setMismatch b).status = s.status := rfl
@[simp] theorem setMismatch_result (b : Bool) : (s.setMismatch b).result = s.result := rfl
@[simp] theorem setMismatch_err (b : Bool) : (s.setMismatch b).err = s.err := rfl
@[simp] theorem setMismatch_frame (b : Bool) : (s.setMismatch b).frame = s.frame := rfl
@[simp] theorem setMismatch_fstat (b : Bool) : (s.setMismatch b).fstat = setBit s.fstat 1 b := rfl
@[simp] theorem setMismatch_crcCalc (b : Bool) : (s.setMismatch b).crcCalc = s.crcCalc := rfl
@[simp] theorem setMismatch_rhRaw (b : Bool) : (s.setMismatch b).rhRaw = s.rhRaw := rfl
@[simp] theorem setMismatch_tRaw (b : Bool) : (s.setMismatch b).tRaw = s.tRaw := rfl
@[simp] theorem setMismatch_rhQ20 (b : Bool) : (s.setMismatch b).rhQ20 = s.rhQ20 := rfl
@[simp] theorem setMismatch_tcQ20 (b : Bool) : (s.setMismatch b).tcQ20 = s.tcQ20 := rfl
@[simp] theorem setMismatch_calb (b : Bool) : (s.setMismatch b).calb = s.calb := rfl
@[simp] theorem setMismatch_ut (b : Bool) : (s.setMismatch b).ut = s.ut := rfl
@[simp] theorem setMismatch_upraw (b : Bool) : (s.setMismatch b).upraw = s.upraw := rfl
@[simp] theorem setMismatch_coef (b : Bool) : (s.setMismatch b).coef = s.coef := rfl
@[simp] theorem setMismatch_b5 (b : Bool) : (s.setMismatch b).b5 = s.b5 := rfl
@[simp] theorem setMismatch_t10 (b : Bool) : (s.setMismatch b).t10 = s.t10 := rfl
@[simp] theorem setMismatch_p (b : Bool) : (s.setMismatch b).p = s.p := rfl
@[simp] theorem setMismatch_up (b : Bool) : (s.setMismatch b).up = s.up := rfl
@[simp] theorem setMismatch_dcs (b : Bool) : (s.setMismatch b).dcs = s.dcs := rfl
@[simp] theorem setMismatch_txdata (b : Bool) : (s.setMismatch b).txdata = s.txdata := rfl
@[simp] theorem setMismatch_curRow (b : Bool) : (s.setMismatch b).curRow = s.curRow := rfl
@[simp] theorem setMismatch_curCol (b : Bool) : (s.setMismatch b).curCol = s.curCol := rfl
@[simp] theorem setMismatch_txb (b : Bool) : (s.setMismatch b).txb = s.txb := rfl
@[simp] theorem setMismatch_txn (b : Bool) : (s.setMismatch b).txn = s.txn := rfl
@[simp] theorem setMismatch_port (b : Bool) : (s.setMismatch b).port = s.port := rfl
@[simp] theorem setMismatch_pending (b : Bool) : (s.setMismatch b).pending = s.pending := rfl
@[simp] theorem setMismatch_reads (b : Bool) : (s.setMismatch b).reads = s.reads := rfl
@[simp] theorem setMismatch_answers (b : Bool) : (s.setMismatch b).answers = s.answers := rfl
@[simp] theorem setMismatch_draws (b : Bool) : (s.setMismatch b).draws = s.draws := rfl
@[simp] theorem setMismatch_busWait (b : Bool) : (s.setMismatch b).busWait = s.busWait := rfl

@[simp] theorem setValid_ctrl (b : Bool) : (s.setValid b).ctrl = s.ctrl := rfl
@[simp] theorem setValid_status (b : Bool) : (s.setValid b).status = s.status := rfl
@[simp] theorem setValid_result (b : Bool) : (s.setValid b).result = s.result := rfl
@[simp] theorem setValid_err (b : Bool) : (s.setValid b).err = s.err := rfl
@[simp] theorem setValid_frame (b : Bool) : (s.setValid b).frame = s.frame := rfl
@[simp] theorem setValid_fstat (b : Bool) : (s.setValid b).fstat = setBit s.fstat 2 b := rfl
@[simp] theorem setValid_crcCalc (b : Bool) : (s.setValid b).crcCalc = s.crcCalc := rfl
@[simp] theorem setValid_rhRaw (b : Bool) : (s.setValid b).rhRaw = s.rhRaw := rfl
@[simp] theorem setValid_tRaw (b : Bool) : (s.setValid b).tRaw = s.tRaw := rfl
@[simp] theorem setValid_rhQ20 (b : Bool) : (s.setValid b).rhQ20 = s.rhQ20 := rfl
@[simp] theorem setValid_tcQ20 (b : Bool) : (s.setValid b).tcQ20 = s.tcQ20 := rfl
@[simp] theorem setValid_calb (b : Bool) : (s.setValid b).calb = s.calb := rfl
@[simp] theorem setValid_ut (b : Bool) : (s.setValid b).ut = s.ut := rfl
@[simp] theorem setValid_upraw (b : Bool) : (s.setValid b).upraw = s.upraw := rfl
@[simp] theorem setValid_coef (b : Bool) : (s.setValid b).coef = s.coef := rfl
@[simp] theorem setValid_b5 (b : Bool) : (s.setValid b).b5 = s.b5 := rfl
@[simp] theorem setValid_t10 (b : Bool) : (s.setValid b).t10 = s.t10 := rfl
@[simp] theorem setValid_p (b : Bool) : (s.setValid b).p = s.p := rfl
@[simp] theorem setValid_up (b : Bool) : (s.setValid b).up = s.up := rfl
@[simp] theorem setValid_dcs (b : Bool) : (s.setValid b).dcs = s.dcs := rfl
@[simp] theorem setValid_txdata (b : Bool) : (s.setValid b).txdata = s.txdata := rfl
@[simp] theorem setValid_curRow (b : Bool) : (s.setValid b).curRow = s.curRow := rfl
@[simp] theorem setValid_curCol (b : Bool) : (s.setValid b).curCol = s.curCol := rfl
@[simp] theorem setValid_txb (b : Bool) : (s.setValid b).txb = s.txb := rfl
@[simp] theorem setValid_txn (b : Bool) : (s.setValid b).txn = s.txn := rfl
@[simp] theorem setValid_port (b : Bool) : (s.setValid b).port = s.port := rfl
@[simp] theorem setValid_pending (b : Bool) : (s.setValid b).pending = s.pending := rfl
@[simp] theorem setValid_reads (b : Bool) : (s.setValid b).reads = s.reads := rfl
@[simp] theorem setValid_answers (b : Bool) : (s.setValid b).answers = s.answers := rfl
@[simp] theorem setValid_draws (b : Bool) : (s.setValid b).draws = s.draws := rfl
@[simp] theorem setValid_busWait (b : Bool) : (s.setValid b).busWait = s.busWait := rfl

@[simp] theorem dropAnswer_ctrl : s.dropAnswer.ctrl = s.ctrl := by unfold State.dropAnswer; split <;> rfl
@[simp] theorem dropAnswer_status : s.dropAnswer.status = s.status := by unfold State.dropAnswer; split <;> rfl
@[simp] theorem dropAnswer_result : s.dropAnswer.result = s.result := by unfold State.dropAnswer; split <;> rfl
@[simp] theorem dropAnswer_err : s.dropAnswer.err = s.err := by unfold State.dropAnswer; split <;> rfl
@[simp] theorem dropAnswer_frame : s.dropAnswer.frame = s.frame := by unfold State.dropAnswer; split <;> rfl
@[simp] theorem dropAnswer_fstat : s.dropAnswer.fstat = s.fstat := by unfold State.dropAnswer; split <;> rfl
@[simp] theorem dropAnswer_crcCalc : s.dropAnswer.crcCalc = s.crcCalc := by unfold State.dropAnswer; split <;> rfl
@[simp] theorem dropAnswer_rhRaw : s.dropAnswer.rhRaw = s.rhRaw := by unfold State.dropAnswer; split <;> rfl
@[simp] theorem dropAnswer_tRaw : s.dropAnswer.tRaw = s.tRaw := by unfold State.dropAnswer; split <;> rfl
@[simp] theorem dropAnswer_rhQ20 : s.dropAnswer.rhQ20 = s.rhQ20 := by unfold State.dropAnswer; split <;> rfl
@[simp] theorem dropAnswer_tcQ20 : s.dropAnswer.tcQ20 = s.tcQ20 := by unfold State.dropAnswer; split <;> rfl
@[simp] theorem dropAnswer_calb : s.dropAnswer.calb = s.calb := by unfold State.dropAnswer; split <;> rfl
@[simp] theorem dropAnswer_ut : s.dropAnswer.ut = s.ut := by unfold State.dropAnswer; split <;> rfl
@[simp] theorem dropAnswer_upraw : s.dropAnswer.upraw = s.upraw := by unfold State.dropAnswer; split <;> rfl
@[simp] theorem dropAnswer_coef : s.dropAnswer.coef = s.coef := by unfold State.dropAnswer; split <;> rfl
@[simp] theorem dropAnswer_b5 : s.dropAnswer.b5 = s.b5 := by unfold State.dropAnswer; split <;> rfl
@[simp] theorem dropAnswer_t10 : s.dropAnswer.t10 = s.t10 := by unfold State.dropAnswer; split <;> rfl
@[simp] theorem dropAnswer_p : s.dropAnswer.p = s.p := by unfold State.dropAnswer; split <;> rfl
@[simp] theorem dropAnswer_up : s.dropAnswer.up = s.up := by unfold State.dropAnswer; split <;> rfl
@[simp] theorem dropAnswer_dcs : s.dropAnswer.dcs = s.dcs := by unfold State.dropAnswer; split <;> rfl
@[simp] theorem dropAnswer_txdata : s.dropAnswer.txdata = s.txdata := by unfold State.dropAnswer; split <;> rfl
@[simp] theorem dropAnswer_curRow : s.dropAnswer.curRow = s.curRow := by unfold State.dropAnswer; split <;> rfl
@[simp] theorem dropAnswer_curCol : s.dropAnswer.curCol = s.curCol := by unfold State.dropAnswer; split <;> rfl
@[simp] theorem dropAnswer_txb : s.dropAnswer.txb = s.txb := by unfold State.dropAnswer; split <;> rfl
@[simp] theorem dropAnswer_txn : s.dropAnswer.txn = s.txn := by unfold State.dropAnswer; split <;> rfl
@[simp] theorem dropAnswer_port : s.dropAnswer.port = s.port := by unfold State.dropAnswer; split <;> rfl
@[simp] theorem dropAnswer_pending : s.dropAnswer.pending = s.pending := by unfold State.dropAnswer; split <;> rfl
@[simp] theorem dropAnswer_reads : s.dropAnswer.reads = s.reads := by unfold State.dropAnswer; split <;> rfl
@[simp] theorem dropAnswer_busWait : s.dropAnswer.busWait = s.busWait := by unfold State.dropAnswer; split <;> rfl

end Sys2Proof.Machine
end

