-- ==== Sys2Proof/Laws/Bus.lean ====
section
/-! SUPPORT. The output port: answers are taken one by one, and what the framing loop of R150 can do, said once. -/

namespace Sys2Proof.Machine

/-- Taking an answer moves every later one forward by one. -/
@[simp] theorem answerAt_dropAnswer (s : State) (i : Nat) : s.dropAnswer.answerAt i = s.answerAt (i + 1) := by
  unfold State.dropAnswer
  split <;> rename_i h
  · unfold State.answerAt
    rw [h]
    simp [show ∀ n : Nat, i + 1 - (n + 1) = i - n by omega]
  · unfold State.answerAt
    rw [h]
    simp [Nat.add_assoc, Nat.add_comm 1 i]

/-- Taking an answer changes nothing but the answers. -/
theorem dropAnswer_eq (s : State) :
    s.dropAnswer = { s with answers := s.dropAnswer.answers, draws := s.dropAnswer.draws } := by
  unfold State.dropAnswer
  split <;> rfl

/-- The answers ahead depend on the listed answers and on the draws alone. -/
theorem answerAt_congr {s t : State} (ha : t.answers = s.answers) (hd : t.draws = s.draws) (i : Nat) :
    t.answerAt i = s.answerAt i := by
  simp [State.answerAt, ha, hd]

/-- The state after an acknowledged write of `b`, the `n`-th of its command. -/
def State.afterAck (s : State) (b : Byte) (n : Nat) : State :=
  { s.dropAnswer with port := s.port ++ [⟨Config.lcdAddr, b, .ack⟩], txn := BitVec.ofNat 8 n }

/-- The state after acknowledged writes of `bs`, `n` writes having been acknowledged before. -/
def State.afterAcks : List Byte → Nat → State → State
  | [], _, s => s
  | b :: bs, n, s => State.afterAcks bs (n + 1) (s.afterAck b (n + 1))

theorem busWrite_ack {s : State} {b : Byte} (h : s.answerAt 0 = some .ack) :
    s.busWrite b = (some .ack, { s.dropAnswer with port := s.port ++ [⟨Config.lcdAddr, b, .ack⟩] }) := by
  simp [State.busWrite, h]

theorem busWrite_nack {s : State} {b : Byte} (h : s.answerAt 0 = some .nack) :
    s.busWrite b = (some .nack, { s.dropAnswer with port := s.port ++ [⟨Config.lcdAddr, b, .nack⟩] }) := by
  simp [State.busWrite, h]

theorem busWrite_none {s : State} {b : Byte} (h : s.answerAt 0 = none) :
    s.busWrite b = (none, { s.dropAnswer with busWait := some b }) := by
  simp [State.busWrite, h]

theorem sendFrom_ack {s : State} {b : Byte} {bs : List Byte} {n : Nat} (h : s.answerAt 0 = some .ack) :
    sendFrom (b :: bs) n s = sendFrom bs (n + 1) (s.afterAck b (n + 1)) := by
  simp [sendFrom, busWrite_ack h, State.afterAck]

theorem sendFrom_nack {s : State} {b : Byte} {bs : List Byte} {n : Nat} (h : s.answerAt 0 = some .nack) :
    sendFrom (b :: bs) n s =
      State.endCommand { s.dropAnswer with port := s.port ++ [⟨Config.lcdAddr, b, .nack⟩] } .busFailure := by
  simp [sendFrom, busWrite_nack h]

theorem sendFrom_none {s : State} {b : Byte} {bs : List Byte} {n : Nat} (h : s.answerAt 0 = none) :
    sendFrom (b :: bs) n s = { s.dropAnswer with busWait := some b } := by
  simp [sendFrom, busWrite_none h]

@[simp] theorem answerAt_afterAck (s : State) (b : Byte) (n i : Nat) :
    (s.afterAck b n).answerAt i = s.answerAt (i + 1) :=
  (answerAt_congr (s := s.dropAnswer) (t := s.afterAck b n) rfl rfl i).trans (answerAt_dropAnswer s i)

/-- What acknowledged writes leave: the history grows by one event each, TXN counts them, and only the answers are
taken besides. -/
theorem afterAcks_eq (bs : List Byte) (n : Nat) (s : State) :
    State.afterAcks bs n s =
      { s with
        port := s.port ++ bs.map (fun b => ⟨Config.lcdAddr, b, .ack⟩)
        txn := if bs = [] then s.txn else BitVec.ofNat 8 (n + bs.length)
        answers := (State.afterAcks bs n s).answers
        draws := (State.afterAcks bs n s).draws } := by
  induction bs generalizing n s with
  | nil => simp [State.afterAcks]
  | cons b bs ih =>
    rw [State.afterAcks, ih]
    cases bs <;> simp [State.afterAck, State.dropAnswer, Nat.add_assoc, Nat.add_comm 1] <;> split <;> simp

theorem answerAt_afterAcks (bs : List Byte) (n : Nat) (s : State) (i : Nat) :
    (State.afterAcks bs n s).answerAt i = s.answerAt (bs.length + i) := by
  induction bs generalizing n s with
  | nil => simp [State.afterAcks]
  | cons b bs ih => rw [State.afterAcks, ih, answerAt_afterAck]; congr 1; simp; omega

/-- While the answers are ACK the loop goes on. -/
theorem sendFrom_append (bs rest : List Byte) (n : Nat) (s : State) (h : s.AcksBefore bs.length) :
    sendFrom (bs ++ rest) n s = sendFrom rest (n + bs.length) (State.afterAcks bs n s) := by
  induction bs generalizing n s with
  | nil => simp [State.afterAcks]
  | cons b bs ih =>
    rw [List.cons_append, sendFrom_ack (h 0 (by simp)), ih]
    · simp [State.afterAcks, Nat.add_assoc, Nat.add_comm 1]
    · intro i hi
      rw [answerAt_afterAck]
      exact h _ (by simpa using hi)

/-- All the loop can do: every write is acknowledged and the command ends OK, or one is NACKed and it ends
BUS_FAILURE, or one is never answered and it does not end; the writes before that one were acknowledged. -/
theorem sendFrom_cases (bs : List Byte) (n : Nat) (s : State) :
    (s.AcksBefore bs.length ∧ sendFrom bs n s = (State.afterAcks bs n s).endCommand .ok) ∨
    ∃ pre b post, bs = pre ++ b :: post ∧ s.AcksBefore pre.length ∧
      ((s.answerAt pre.length = some .nack ∧ sendFrom bs n s = State.endCommand
          { (State.afterAcks pre n s).dropAnswer with
            port := (State.afterAcks pre n s).port ++ [⟨Config.lcdAddr, b, .nack⟩] } .busFailure) ∨
       (s.answerAt pre.length = none ∧
        sendFrom bs n s = { (State.afterAcks pre n s).dropAnswer with busWait := some b })) := by
  induction bs generalizing n s with
  | nil => exact .inl ⟨by simp [State.AcksBefore], rfl⟩
  | cons b bs ih =>
    match h : s.answerAt 0 with
    | none =>
      exact .inr ⟨[], b, bs, rfl, by simp [State.AcksBefore], .inr ⟨h, sendFrom_none h⟩⟩
    | some .nack =>
      exact .inr ⟨[], b, bs, rfl, by simp [State.AcksBefore], .inl ⟨h, sendFrom_nack h⟩⟩
    | some .ack =>
      have shift : ∀ k, (s.afterAck b (n + 1)).AcksBefore k → s.AcksBefore (k + 1) := by
        intro k hk i hi
        cases i with
        | zero => exact h
        | succ i => simpa using hk i (by omega)
      rcases ih (n + 1) (s.afterAck b (n + 1)) with ⟨ha, he⟩ | ⟨pre, c, post, rfl, ha, hr⟩
      · exact .inl ⟨shift _ ha, by rw [sendFrom_ack h, he, State.afterAcks]⟩
      · refine .inr ⟨b :: pre, c, post, rfl, shift _ ha, ?_⟩
        rw [sendFrom_ack h]
        simpa [State.afterAcks] using hr

end Sys2Proof.Machine
end

