-- ==== Sys2Proof/Laws/Registers.lean ====
section
/-! SUPPORT. The register map and what reads and stores see of it: where an address lies, what a store of one byte
changes, and which registers each shared operation keeps. -/

namespace Sys2Proof.Machine

/-- Where an address lies (R24). -/
theorem locate_spec {a : Byte} {r : RegRow} {k : Nat} (h : locate a = some (r, k)) :
    r ∈ registerMap ∧ a.toNat = r.base + k ∧ k < r.bytes := by
  unfold locate at h
  split at h
  · rename_i row hf
    obtain ⟨rfl, rfl⟩ : row = r ∧ a.toNat - row.base = k := by simpa using h
    have hm := List.mem_of_find?_eq_some hf
    have hp := List.find?_some hf
    simp at hp
    exact ⟨hm, by omega, by omega⟩
  · cases h

/-- Two rows of the map with the same register are the same row. -/
theorem registerMap_reg_inj : ∀ r ∈ registerMap, ∀ r' ∈ registerMap, r.reg = r'.reg → r = r' := by decide

/-- A register and a byte number have one address. -/
theorem locate_inj {a x : Byte} {r r' : RegRow} {k : Nat} (h : locate a = some (r, k)) (hx : locate x = some (r', k))
    (hr : r.reg = r'.reg) : a = x := by
  have h1 := locate_spec h
  have h2 := locate_spec hx
  have := registerMap_reg_inj _ h1.1 _ h2.1 hr
  subst this
  exact BitVec.eq_of_toNat_eq (by omega)

theorem hostRead_of_locate {s : State} {a : Byte} {r : RegRow} {k : Nat} (h : locate a = some (r, k)) :
    s.hostRead a = (s.regBytes r.reg).getD k 0x00#8 := by
  simp [State.hostRead, h]

theorem hostRead_of_reserved {s : State} {a : Byte} (h : locate a = none) : s.hostRead a = 0x00#8 := by
  simp [State.hostRead, h]

/-- Two states whose register at `a` reads the same answer the same byte. -/
theorem hostRead_congr {s t : State} {a : Byte} (h : ∀ r k, locate a = some (r, k) → t.regBytes r.reg = s.regBytes r.reg) :
    t.hostRead a = s.hostRead a := by
  match hl : locate a with
  | none => rw [hostRead_of_reserved hl, hostRead_of_reserved hl]
  | some (r, k) => rw [hostRead_of_locate hl, hostRead_of_locate hl, h r k hl]

/-- The registers a store changes by its byte alone, and how many bytes each has (R24). -/
def plainWidth : Reg → Nat
  | .frame => 7
  | .calb => 22
  | .ut => 2
  | .upraw => 3
  | .txdata | .curRow | .curCol => 1
  | .ctrl | .status | .cmd | .result | .err | .fstat | .crcCalc | .rhRaw | .tRaw | .rhQ20 | .tcQ20 | .coef | .b5 | .t10
  | .p | .up | .dcs | .txb | .txn => 0

theorem bytesOf_two (v : BitVec 16) : bytesOf 2 v = [v.extractLsb' 8 8, v.extractLsb' 0 8] := rfl

theorem bytesOf_three (v : BitVec 24) :
    bytesOf 3 v = [v.extractLsb' 16 8, v.extractLsb' 8 8, v.extractLsb' 0 8] := rfl

theorem bytesOf_four (v : BitVec 32) :
    bytesOf 4 v = [v.extractLsb' 24 8, v.extractLsb' 16 8, v.extractLsb' 8 8, v.extractLsb' 0 8] := rfl

/-- Bit `i` of a register with one byte replaced. -/
theorem getLsbD_setByte {w : Nat} (n : Nat) (v : BitVec w) (k : Nat) (b : Byte) (i : Nat) :
    (setByte n v k b).getLsbD i =
      if i < w ∧ 8 * (n - 1 - k) ≤ i ∧ i < 8 * (n - 1 - k) + 8 then b.getLsbD (i - 8 * (n - 1 - k))
      else v.getLsbD i := by
  simp only [setByte, BitVec.getLsbD_or, BitVec.getLsbD_and, BitVec.getLsbD_not, BitVec.getLsbD_shiftLeft,
    BitVec.getLsbD_setWidth, BitVec.getLsbD_allOnes]
  by_cases hw : i < w
  · by_cases h1 : 8 * (n - 1 - k) ≤ i
    · by_cases h2 : i < 8 * (n - 1 - k) + 8
      · have h3 : i - 8 * (n - 1 - k) < w := by omega
        have h4 : i - 8 * (n - 1 - k) < 8 := by omega
        simp [hw, h1, h2, h3, h4, Nat.not_lt.mpr h1]
      · have h4 : ¬ i - 8 * (n - 1 - k) < 8 := by omega
        simp [hw, h2, h4, BitVec.getLsbD_of_ge b _ (Nat.not_lt.mp h4)]
    · simp [hw, h1, Nat.lt_of_not_le h1]
  · simp [hw, BitVec.getLsbD_of_ge v i (Nat.not_lt.mp hw)]

/-- Replacing byte `k` of a register replaces byte `k` of what the host reads. -/
theorem bytesOf_setByte {w : Nat} (n : Nat) (v : BitVec w) (k : Nat) (b : Byte) (hw : w = 8 * n) (hk : k < n) :
    bytesOf n (setByte n v k b) = (bytesOf n v).set k b := by
  apply List.ext_getElem (by simp [bytesOf])
  intro j hj _
  have hj : j < n := by simpa [bytesOf] using hj
  rw [List.getElem_set]
  simp only [bytesOf, List.getElem_map, List.getElem_range]
  apply BitVec.eq_of_getLsbD_eq
  intro i hi
  rw [BitVec.getLsbD_extractLsb', getLsbD_setByte]
  by_cases hkj : k = j
  · subst hkj
    rw [if_pos (by omega)]
    simp [hi]
  · rw [if_neg (by omega)]
    simp [hkj, hi]

/-- A store to a plain register replaces one byte of it. -/
theorem regBytes_storeByte_same (s : State) (r : Reg) (k : Nat) (b : Byte) (hk : k < plainWidth r) :
    (s.storeByte r k b).regBytes r = (s.regBytes r).set k b := by
  cases r <;> simp only [plainWidth, Nat.not_lt_zero] at hk
  case frame => simp [State.storeByte, State.regBytes]
  case calb => simp [State.storeByte, State.regBytes]
  case ut => simpa [State.storeByte, State.regBytes] using bytesOf_setByte 2 s.ut k b rfl hk
  case upraw => simpa [State.storeByte, State.regBytes] using bytesOf_setByte 3 s.upraw k b rfl hk
  all_goals
    obtain rfl : k = 0 := by omega
    rfl

/-- A store keeps every other register; a store to UT also writes STATUS. -/
theorem regBytes_storeByte_other (s : State) (r : Reg) (k : Nat) (b : Byte) (r' : Reg) (h : r' ≠ r)
    (hs : r = .ut → r' ≠ .status) : (s.storeByte r k b).regBytes r' = s.regBytes r' := by
  cases r <;> cases r' <;> first | rfl | (exact absurd rfl h) | (exact absurd rfl (hs rfl))

/-- No store touches the port or the host side. -/
theorem storeByte_quiet (s : State) (r : Reg) (k : Nat) (b : Byte) :
    PortQuiet s (s.storeByte r k b) ∧ HostSideKept s (s.storeByte r k b) := by
  cases r <;> exact ⟨⟨rfl, rfl, rfl, rfl⟩, rfl, rfl⟩

theorem keepsRegs_refl (rs : List Reg) (s : State) : KeepsRegs rs s s := fun _ _ => rfl

theorem keepsRegs_trans {ra rb rc : List Reg} {s t u : State} (h1 : KeepsRegs ra s t) (h2 : KeepsRegs rb t u)
    (hsub : ∀ r, r ∉ rc → r ∉ ra ∧ r ∉ rb) : KeepsRegs rc s u :=
  fun r hr => (h2 r (hsub r hr).2).trans (h1 r (hsub r hr).1)

theorem keepsRegs_mono {ra rc : List Reg} {s t : State} (h : KeepsRegs ra s t) (hsub : ∀ r, r ∉ rc → r ∉ ra) :
    KeepsRegs rc s t :=
  fun r hr => h r (hsub r hr)

/-- The end of a command writes RESULT and ERR only. -/
theorem keepsRegs_endCommand (s : State) (c : ResultCode) : KeepsRegs [.result, .err] s (s.endCommand c) := by
  intro r hr
  cases r <;> first | rfl | (simp at hr)

/-- A command that ends OK leaves ERR alone. -/
theorem keepsRegs_endOk (s : State) : KeepsRegs [.result] s (s.endCommand .ok) := by
  intro r hr
  cases r <;> first | rfl | (simp at hr)

theorem endCommand_quiet (s : State) (c : ResultCode) :
    PortQuiet s (s.endCommand c) ∧ HostSideKept s (s.endCommand c) :=
  ⟨⟨rfl, rfl, rfl, rfl⟩, rfl, rfl⟩

/-- The latch of R173 in one function. -/
theorem endCommand_err_latched (s : State) (c : ResultCode) : (s.endCommand c).err = latched c.byte s.err := rfl

/-- Acknowledged writes change TXN only. -/
theorem keepsRegs_afterAcks (bs : List Byte) (n : Nat) (s : State) : KeepsRegs [.txn] s (State.afterAcks bs n s) := by
  intro r hr
  rw [afterAcks_eq]
  cases r <;> first | rfl | (simp at hr)

theorem afterAcks_hostSide (bs : List Byte) (n : Nat) (s : State) : HostSideKept s (State.afterAcks bs n s) := by
  rw [afterAcks_eq]
  exact ⟨rfl, rfl⟩

/-- The framing loop writes TXN, RESULT and ERR only, and takes no host access. -/
theorem sendFrom_keeps (bs : List Byte) (n : Nat) (s : State) :
    KeepsRegs [.txn, .result, .err] s (sendFrom bs n s) ∧ HostSideKept s (sendFrom bs n s) := by
  rcases sendFrom_cases bs n s with ⟨_, he⟩ | ⟨pre, b, post, _, _, ⟨_, he⟩ | ⟨_, he⟩⟩ <;> rw [he, afterAcks_eq] <;>
    (try rw [dropAnswer_eq]) <;>
    exact ⟨fun r hr => by cases r <;> first | rfl | (simp at hr), rfl, rfl⟩

/-- `nib_send` writes TXB, TXN, RESULT and ERR only, and takes no host access. -/
theorem nibSend_keeps (b rs : Byte) (s : State) :
    KeepsRegs [.txb, .txn, .result, .err] s (s.nibSend b rs) ∧ HostSideKept s (s.nibSend b rs) := by
  have h := sendFrom_keeps (nibBytes b rs).toList 0 { s with txb := nibBytes b rs, txn := 0x00#8 }
  refine ⟨fun r hr => ?_, h.2⟩
  refine (h.1 r (by simp_all)).trans ?_
  cases r <;> first | rfl | (simp at hr)

end Sys2Proof.Machine
end

