-- ==== Sys2Proof/Laws/Commands.lean ====
section
/-! SUPPORT. What each command answers, said once: the outcomes of FRM_CHECK, CAL_LOAD, CMP_TEMP, CMP_PRES and
SET_CURSOR under their conditions, the flag bits, and the operands as numbers. -/

namespace Sys2Proof.Machine

/-! ## Flag bits -/

/-- A written flag reads back, and the other bits stay. -/
theorem setBit_spec (v : Byte) (b : Bool) :
    (setBit v 0 b).getLsbD 0 = b ∧ (setBit v 1 b).getLsbD 1 = b ∧ (setBit v 2 b).getLsbD 2 = b ∧
    setBit v 0 b &&& 0xFE#8 = v &&& 0xFE#8 ∧ setBit v 1 b &&& 0xFD#8 = v &&& 0xFD#8 ∧
    setBit v 2 b &&& 0xFB#8 = v &&& 0xFB#8 := by
  revert v b; decide +kernel

/-- Two flags do not disturb each other. -/
theorem setBit_other (v : Byte) (b : Bool) :
    (setBit v 1 b).getLsbD 0 = v.getLsbD 0 ∧ (setBit v 0 b).getLsbD 1 = v.getLsbD 1 ∧
    (setBit v 1 b).getLsbD 2 = v.getLsbD 2 ∧ (setBit v 2 b).getLsbD 0 = v.getLsbD 0 ∧
    (setBit v 2 b).getLsbD 1 = v.getLsbD 1 := by
  revert v b; decide +kernel

@[simp] theorem b5Fresh_setB5Fresh (s : State) (b : Bool) : (s.setB5Fresh b).b5Fresh = b := (setBit_spec s.status b).2.1

@[simp] theorem calValid_setB5Fresh (s : State) (b : Bool) : (s.setB5Fresh b).calValid = s.calValid :=
  (setBit_other s.status b).1

@[simp] theorem calValid_setCalValid (s : State) (b : Bool) : (s.setCalValid b).calValid = b := (setBit_spec s.status b).1

@[simp] theorem b5Fresh_setCalValid (s : State) (b : Bool) : (s.setCalValid b).b5Fresh = s.b5Fresh :=
  (setBit_other s.status b).2.1

@[simp] theorem fMismatch_setMismatch (s : State) (b : Bool) : (s.setMismatch b).fMismatch = b :=
  (setBit_spec s.fstat b).2.1

@[simp] theorem b5Fresh_endCommand (s : State) (c : ResultCode) : (s.endCommand c).b5Fresh = s.b5Fresh := rfl

@[simp] theorem calValid_endCommand (s : State) (c : ResultCode) : (s.endCommand c).calValid = s.calValid := rfl

/-- FSTAT at the start of a frame check, and with VALID set. -/
theorem fstatWord_eq (m b : Bool) :
    fstatWord m b = ((if m then 0x02#8 else 0x00#8) ||| (if b then 0x01#8 else 0x00#8)) ∧
    setBit (fstatWord m b) 2 true = (0x04#8 ||| (if m then 0x02#8 else 0x00#8) ||| (if b then 0x01#8 else 0x00#8)) := by
  revert m b; decide

/-! ## Operands as numbers -/

theorem frame_take_six (f : Vector Byte 7) : f.toList.take 6 = [f[0], f[1], f[2], f[3], f[4], f[5]] := by
  obtain ⟨⟨l⟩, h⟩ := f
  match l, h with
  | [_, _, _, _, _, _, _], _ => rfl

theorem frameCrc_eq (s : State) :
    s.frameCrc = crc8 [s.frame[0], s.frame[1], s.frame[2], s.frame[3], s.frame[4], s.frame[5]] := by
  rw [State.frameCrc, Config.crcLen, frame_take_six]

theorem frameBusy_eq (s : State) : s.frameBusy = decide (128 ≤ s.frame[0].toNat) := by
  have h : ∀ b : Byte, (b &&& Config.busyMask != 0#8) = decide (128 ≤ b.toNat) := by decide +kernel
  exact h _

theorem frameRh_toNat (s : State) :
    s.frameRh.toNat = s.frame[1].toNat * 4096 + s.frame[2].toNat * 16 + s.frame[3].toNat / 16 := by
  have h : (s.frame[1] ++ s.frame[2] ++ s.frame[3].extractLsb' 4 4 : BitVec (8 + 8 + 4)).toNat =
      s.frame[1].toNat * 4096 + s.frame[2].toNat * 16 + s.frame[3].toNat / 16 := by
    rw [BitVec.toNat_append, BitVec.toNat_append, BitVec.extractLsb'_toNat, ← Nat.shiftLeft_add_eq_or_of_lt (by omega),
      ← Nat.shiftLeft_add_eq_or_of_lt (by omega)]
    simp only [Nat.shiftLeft_eq, Nat.shiftRight_eq_div_pow]
    have := s.frame[3].isLt
    omega
  exact h

theorem frameT_toNat (s : State) :
    s.frameT.toNat = s.frame[3].toNat % 16 * 65536 + s.frame[4].toNat * 256 + s.frame[5].toNat := by
  have h : (s.frame[3].extractLsb' 0 4 ++ s.frame[4] ++ s.frame[5] : BitVec (4 + 8 + 8)).toNat =
      s.frame[3].toNat % 16 * 65536 + s.frame[4].toNat * 256 + s.frame[5].toNat := by
    rw [BitVec.toNat_append, BitVec.toNat_append, BitVec.extractLsb'_toNat, ← Nat.shiftLeft_add_eq_or_of_lt (by omega),
      ← Nat.shiftLeft_add_eq_or_of_lt (by omega)]
    simp only [Nat.shiftLeft_eq, Nat.shiftRight_eq_div_pow]
    omega
  exact h

theorem rhConvert_toNat (r : BitVec 20) : (rhConvert r).toNat = r.toNat * 100 := by
  simp only [rhConvert, BitVec.toNat_ofNat]; omega

theorem tConvert_toInt (r : BitVec 20) : (tConvert r).toInt = (r.toNat : Int) * 200 - 52428800 := by
  simp only [tConvert, BitVec.toInt_ofInt]
  apply Int.bmod_eq_of_le <;> omega

/-- Two big-endian bytes as a number (R52, R78). -/
theorem word16_toNat (hi lo : Byte) : BitVec.toNat (w := 16) (hi ++ lo : BitVec (8 + 8)) = hi.toNat * 256 + lo.toNat := by
  have h : (hi ++ lo : BitVec (8 + 8)).toNat = hi.toNat * 256 + lo.toNat := by
    rw [BitVec.toNat_append, ← Nat.shiftLeft_add_eq_or_of_lt (by omega), Nat.shiftLeft_eq]
  exact h

/-- Each parsed coefficient as a number (R78, R120). -/
theorem calParse_toNat (s : State) (k : Fin 11) :
    s.calParse[k.val].toNat = s.calb[2 * k.val].toNat * 256 + s.calb[2 * k.val + 1].toNat := by
  match k with
  | 0 | 1 | 2 | 3 | 4 | 5 | 6 | 7 | 8 | 9 | 10 => exact word16_toNat _ _

theorem upCode_toNat (s : State) : s.upCode.toNat = s.upraw.toNat / 2 ^ (8 - s.oss) := by
  simp [State.upCode, Nat.shiftRight_eq_div_pow]

theorem oss_lt (s : State) : s.oss < 4 := (s.ctrl.extractLsb' 1 2).isLt

/-! ## Outcomes -/

theorem execFrmCheck_busy {s : State} (h : s.frameBusy = true) :
    execFrmCheck s = .next (s.frameFlags.endCommand .frameBusy) := by
  simp [execFrmCheck, h]

theorem execFrmCheck_crc {s : State} (h : s.frameBusy = false) (he : s.crcEn = true) (hm : s.crcMismatch = true) :
    execFrmCheck s = .next (s.frameFlags.endCommand .crcError) := by
  simp [execFrmCheck, h, he, hm]

theorem execFrmCheck_ok {s : State} (h : s.frameBusy = false) (hm : (s.crcEn && s.crcMismatch) = false) :
    execFrmCheck s = .next (s.frameFlags.frameDecoded.endCommand .ok) := by
  simp [execFrmCheck, h, hm]

theorem execCalLoad_reject {s : State} (h : hasSentinel s.calParse = true) :
    execCalLoad s = .next (((s.setB5Fresh false).setCalValid false).endCommand .invalidCalibration) := by
  simp [execCalLoad, h]

theorem execCalLoad_accept {s : State} (h : hasSentinel s.calParse = false) :
    execCalLoad s =
      .next ((State.setCalValid { s.setB5Fresh false with coef := s.calParse } true).endCommand .ok) := by
  simp [execCalLoad, h]

/-- A block has a sentinel exactly when one of its values is 0x0000 or 0xFFFF (R122). -/
theorem hasSentinel_iff (raw : Vector (BitVec 16) 11) :
    hasSentinel raw = true ↔ ∃ k : Fin 11, raw[k.val].toNat = 0 ∨ raw[k.val].toNat = 65535 := by
  have h16 : ∀ v : BitVec 16, Config.calSentinels.contains v = true ↔ v.toNat = 0 ∨ v.toNat = 65535 := by
    intro v
    simp [Config.calSentinels, ← BitVec.toNat_inj]
  simp only [hasSentinel, List.any_eq_true, h16]
  constructor
  · rintro ⟨v, hv, h⟩
    obtain ⟨k, hk, rfl⟩ := List.mem_iff_getElem.mp hv
    exact ⟨⟨k, by simpa using hk⟩, by simpa using h⟩
  · rintro ⟨k, h⟩
    exact ⟨raw[k.val], by simp, h⟩

theorem execCmpTemp_uncalibrated {s : State} (h : s.calValid = false) :
    execCmpTemp s = .next ((s.setB5Fresh false).endCommand .invalidCalibration) := by
  simp [execCmpTemp, h]

theorem execCmpTemp_divZero {s : State} (h : s.calValid = true) (hd : tempDen Config.divRound s.coef s.utCode = 0) :
    execCmpTemp s = .next ((s.setB5Fresh false).endCommand .divZero) := by
  simp [execCmpTemp, h, tcomp, hd]

/-- The retained term of R123, where the divisor is not 0. -/
def tempB5 (m : DivRound) (coef : Vector (BitVec 16) 11) (ut : Int) : Int :=
  s32 (tempX1 m coef ut + sdiv m (s32 (sext16 coef[9] * 2048)) (tempDen m coef ut))

theorem execCmpTemp_ok {s : State} (h : s.calValid = true) (hd : tempDen Config.divRound s.coef s.utCode ≠ 0) :
    execCmpTemp s =
      .next (((s.setB5Fresh false).tempWritten (tempB5 Config.divRound s.coef s.utCode)).endCommand .ok) := by
  simp [execCmpTemp, h, tcomp, hd, tempB5]

theorem execCmpPres_uncalibrated {s : State} (h : s.calValid = false) :
    execCmpPres s = .next ((s.setB5Fresh false).endCommand .invalidCalibration) := by
  simp [execCmpPres, h]

theorem execCmpPres_stale {s : State} (h : s.calValid = true) (hf : s.b5Fresh = false) :
    execCmpPres s = .next ((s.setB5Fresh false).endCommand .staleB5) := by
  simp [execCmpPres, h, hf]

theorem execCmpPres_divZero {s : State} (h : s.calValid = true) (hf : s.b5Fresh = true)
    (hp : pcomp Config.divRound s.coef s.b5.toInt (s.upCode.toNat : Int) s.oss = none) :
    execCmpPres s = .next ((s.setB5Fresh false).endCommand .divZero) := by
  simp [execCmpPres, h, hf, hp]

theorem execCmpPres_ok {s : State} {pv : Int} (h : s.calValid = true) (hf : s.b5Fresh = true)
    (hp : pcomp Config.divRound s.coef s.b5.toInt (s.upCode.toNat : Int) s.oss = some pv) :
    execCmpPres s = .next (((s.setB5Fresh false).presWritten pv).endCommand .ok) := by
  simp [execCmpPres, h, hf, hp]

theorem execSetCursor_reject {s : State} (h : 2 ≤ s.curRow.toNat ∨ 40 ≤ s.curCol.toNat) :
    execSetCursor s = .next (State.endCommand { s with txn := 0x00#8 } .invalidArgument) := by
  have hr : s.curRow > 0x01#8 ∨ s.curCol > Config.colMax := by
    simp only [Config.colMax, gt_iff_lt, BitVec.lt_def]
    simp only [BitVec.toNat_ofNat]
    omega
  simp only [execSetCursor]
  split_ifs with h1 h2
  · rfl
  · rfl
  · exact absurd hr (by simp [h1, h2])

theorem execSetCursor_send {s : State} (hr : s.curRow.toNat ≤ 1) (hc : s.curCol.toNat ≤ 39) :
    execSetCursor s =
      .next (State.nibSend { s with txn := 0x00#8 } (0x80#8 ||| ddramAddr s.curRow s.curCol) 0x00#8) := by
  have h1 : ¬ s.curRow > 0x01#8 := by simp [BitVec.lt_def]; omega
  have h2 : ¬ s.curCol > Config.colMax := by simp [Config.colMax, BitVec.lt_def]; omega
  simp [execSetCursor, h1, h2]

/-! ## Host accesses -/

/-- All a HostWrite can do: perform a command (CMD), clear ERR, store a byte, or be ignored (R24, R47, R55). -/
theorem execHostWr_cases (a b : Byte) (s : State) :
    (a = 0x02#8 ∧ execHostWr a b s = performOpcode b s) ∨
    (a = 0x04#8 ∧ execHostWr a b s = .next { s with err := 0x00#8 }) ∨
    (∃ r k, locate a = some (r, k) ∧ r.access = .rw ∧ execHostWr a b s = .next (s.storeByte r.reg k b)) ∨
    (a ≠ 0x02#8 ∧ (∀ r k, locate a = some (r, k) → r.access = .ro) ∧ execHostWr a b s = .next s) := by
  by_cases h2 : a = 0x02#8
  · subst h2; exact .inl ⟨rfl, rfl⟩
  by_cases h4 : a = 0x04#8
  · subst h4; exact .inr (.inl ⟨rfl, rfl⟩)
  refine .inr (.inr ?_)
  simp only [execHostWr]
  match hl : locate a with
  | none => exact .inr ⟨h2, by simp, rfl⟩
  | some (r, k) =>
    have hs := locate_spec hl
    match hacc : r.access with
    | .rw => exact .inl ⟨r, k, rfl, hacc, by simp [hacc]⟩
    | .ro => exact .inr ⟨h2, by rintro r' k' h; cases h; exact hacc, by simp [hacc]⟩
    | .wo =>
      have hb : ∀ r ∈ registerMap, r.access = .wo → r.base = 2 ∧ r.bytes = 1 := by decide
      have := hb r hs.1 hacc
      exact absurd (BitVec.eq_of_toNat_eq (by simp; omega)) h2
    | .rc =>
      have hb : ∀ r ∈ registerMap, r.access = .rc → r.base = 4 ∧ r.bytes = 1 := by decide
      have := hb r hs.1 hacc
      exact absurd (BitVec.eq_of_toNat_eq (by simp; omega)) h4

end Sys2Proof.Machine
end

