-- ==== Sys2Proof/Laws/Encoding.lean ====
section
/-! SUPPORT. The fields of a host transaction word read back, and the opcode map byte by byte. -/

namespace Sys2Proof

theorem hostFields_dir (x : BitVec 1) (a d : Byte) : (x ++ a ++ d : BitVec (1 + 8 + 8)).getLsbD 16 = x.getLsbD 0 := by
  simp only [BitVec.getLsbD_append]
  rfl

theorem hostFields_addr (x : BitVec 1) (a d : Byte) : (x ++ a ++ d : BitVec (1 + 8 + 8)).extractLsb' 8 8 = a := by
  apply BitVec.eq_of_getLsbD_eq
  intro i hi
  simp only [BitVec.getLsbD_extractLsb', BitVec.getLsbD_append]
  rw [if_neg (by omega), if_pos (by omega), Nat.add_sub_cancel_left]
  simp [hi]

theorem hostFields_data (x : BitVec 1) (a d : Byte) : (x ++ a ++ d : BitVec (1 + 8 + 8)).extractLsb' 0 8 = d := by
  apply BitVec.eq_of_getLsbD_eq
  intro i hi
  simp only [BitVec.getLsbD_extractLsb', BitVec.getLsbD_append, Nat.zero_add]
  rw [if_pos hi]
  simp [hi]

@[simp] theorem writeWord_dir (a d : Byte) : BitVec.getLsbD (writeWord a d) 16 = true := hostFields_dir 1#1 a d

@[simp] theorem writeWord_addr (a d : Byte) : BitVec.extractLsb' 8 8 (writeWord a d) = a := hostFields_addr 1#1 a d

@[simp] theorem writeWord_data (a d : Byte) : BitVec.extractLsb' 0 8 (writeWord a d) = d := hostFields_data 1#1 a d

@[simp] theorem readWord_dir (a : Byte) : BitVec.getLsbD (readWord a) 16 = false := hostFields_dir 0#1 a 0#8

@[simp] theorem readWord_addr (a : Byte) : BitVec.extractLsb' 8 8 (readWord a) = a := hostFields_addr 0#1 a 0#8

@[simp] theorem readWord_data (a : Byte) : BitVec.extractLsb' 0 8 (readWord a) = 0#8 := hostFields_data 0#1 a 0#8

/-- A host transaction word is its three fields. -/
theorem hostWord_eta (w : HostWord) (b : Bool) (h : BitVec.getLsbD w 16 = b) :
    (BitVec.ofBool b ++ w.extractLsb' 8 8 ++ w.extractLsb' 0 8 : BitVec (1 + 8 + 8)) = w := by
  apply BitVec.eq_of_getLsbD_eq
  intro i hi
  simp only [BitVec.getLsbD_append, BitVec.getLsbD_extractLsb']
  by_cases h0 : i < 8
  · simp [h0]
  · by_cases h1 : i < 16
    · have e : 8 + (i - 8) = i := by omega
      simp [h0, show i - 8 < 8 by omega, e]
    · obtain rfl : i = 16 := by omega
      simpa using h.symm

/-- HostWrite words decode to HostWrite (R71). -/
theorem decodeHostWord_writeWord (a d : Byte) : decodeHostWord (writeWord a d) = .ok (.hostWr a d) := by
  simp only [decodeHostWord, writeWord_dir, writeWord_addr, writeWord_data]
  rfl

/-- HostRead words decode to HostRead (R71). -/
theorem decodeHostWord_readWord (a : Byte) : decodeHostWord (readWord a) = .ok (.hostRd a) := by
  simp only [decodeHostWord, readWord_dir, readWord_addr, readWord_data]
  rfl

/-- The opcodes of the map are the defined opcodes. -/
theorem opcodeMap_keys : opcodeMap.map (·.1) = definedOpcodes := rfl

/-- A byte the map does not list is ILLEGAL (R80). -/
theorem decodeCommand_illegal (c : Byte) (h : definedOpcodes.contains c = false) : decodeCommand c = .illegal c := by
  revert h c; decide +kernel

/-- Every command byte is the encoding of what it decodes to (R72, R80). -/
theorem encode_decodeCommand (c : Byte) : encode (decodeCommand c) = .cmd8 c ∧ (decodeCommand c).wf = true := by
  revert c; decide +kernel

end Sys2Proof
end

