-- ==== Sys2Proof/Laws/PerInstr.lean ====
section
/-! SUPPORT. What is said of every instruction as syntax, one lemma per constructor. Family `CarriedWord`: the host
word that carries an instruction is a HostWrite to CMD for a command, and the instruction's own word for a host
access (R70, R71, R82). -/

namespace Sys2Proof.Laws.CarriedWord

def Statement (i : Instr) : Prop :=
  decodeHostWord (hostWordOf (encode i)) =
    match encode i with
    | .cmd8 c => .ok (.hostWr cmdAddr c)
    | .hostAcc w => decodeHostWord w

theorem nop : Statement .nop := decodeHostWord_writeWord _ _
theorem srst : Statement .srst := decodeHostWord_writeWord _ _
theorem frmCrc : Statement .frmCrc := decodeHostWord_writeWord _ _
theorem frmCheck : Statement .frmCheck := decodeHostWord_writeWord _ _
theorem calLoad : Statement .calLoad := decodeHostWord_writeWord _ _
theorem cmpTemp : Statement .cmpTemp := decodeHostWord_writeWord _ _
theorem cmpPres : Statement .cmpPres := decodeHostWord_writeWord _ _
theorem lcdCmd : Statement .lcdCmd := decodeHostWord_writeWord _ _
theorem lcdData : Statement .lcdData := decodeHostWord_writeWord _ _
theorem dispOn : Statement .dispOn := decodeHostWord_writeWord _ _
theorem dispOff : Statement .dispOff := decodeHostWord_writeWord _ _
theorem cursOn : Statement .cursOn := decodeHostWord_writeWord _ _
theorem cursOff : Statement .cursOff := decodeHostWord_writeWord _ _
theorem blinkOn : Statement .blinkOn := decodeHostWord_writeWord _ _
theorem blinkOff : Statement .blinkOff := decodeHostWord_writeWord _ _
theorem setCursor : Statement .setCursor := decodeHostWord_writeWord _ _
theorem hostWr (addr data : Byte) : Statement (.hostWr addr data) := rfl
theorem hostRd (addr : Byte) : Statement (.hostRd addr) := rfl
theorem illegal (op : Byte) : Statement (.illegal op) := decodeHostWord_writeWord _ _

end Sys2Proof.Laws.CarriedWord
end

