-- ==== Sys2Proof/Laws/Step.lean ====
section
/-! SUPPORT. What a step and a command can do, said once: where a next state comes from, how a command ends, what the
framing loop leaves on the port and in TXN. -/

namespace Sys2Proof.Machine

/-- A next state is the idle block's own state, the reset state after a power-on reset, or comes from one instruction
with the queue advanced. -/
theorem step_next_cases {s t : State} (h : step s = .next t) :
    (t = s ∧ s.pending = [] ∧ s.busWait = none) ∨
    (∃ rest, s.pending = .powerOnReset :: rest ∧ t = State.powerOnReset { s with pending := rest }) ∨
    ∃ w rest i, s.pending = .access w :: rest ∧ s.busWait = none ∧ decodeHostWord w = .ok i ∧
      exec i { s with pending := rest } = .next t := by
  simp only [step, State.fetch] at h
  match hp : s.pending with
  | [] =>
    simp only [hp] at h
    match hb : s.busWait with
    | some _ => simp [hb] at h
    | none =>
      simp only [hb] at h
      cases h
      exact .inl ⟨rfl, rfl, rfl⟩
  | .powerOnReset :: rest =>
    simp only [hp] at h
    cases h
    exact .inr (.inl ⟨rest, rfl, rfl⟩)
  | .access w :: rest =>
    simp only [hp, stepAccess] at h
    match hb : s.busWait with
    | some _ => simp [hb] at h
    | none =>
      simp only [hb] at h
      match hd : decodeHostWord w with
      | .error _ => simp [hd] at h
      | .ok i =>
        simp only [hd] at h
        exact .inr (.inr ⟨w, rest, i, rfl, rfl, hd, h⟩)

/-- The framing loop ends the command OK or BUS_FAILURE with ERR as it was at the start, or leaves it unanswered with
RESULT and ERR as they were (R150, R198). -/
theorem sendFrom_end_cases (bs : List Byte) (n : Nat) (s : State) :
    (∃ (u : State) (c : ResultCode), c ≠ .timeout ∧ sendFrom bs n s = u.endCommand c ∧ u.err = s.err) ∨
    ((sendFrom bs n s).busWait ≠ none ∧ (sendFrom bs n s).err = s.err ∧ (sendFrom bs n s).result = s.result) := by
  rcases sendFrom_cases bs n s with ⟨_, he⟩ | ⟨pre, b, post, _, _, ⟨_, he⟩ | ⟨_, he⟩⟩
  · exact .inl ⟨_, .ok, by decide, he, by rw [afterAcks_eq]⟩
  · exact .inl ⟨_, .busFailure, by decide, he, by rw [afterAcks_eq, dropAnswer_eq]⟩
  · right
    rw [he, afterAcks_eq, dropAnswer_eq]
    simp

theorem nibSend_end_cases (b rs : Byte) (s : State) :
    (∃ (u : State) (c : ResultCode), c ≠ .timeout ∧ s.nibSend b rs = u.endCommand c ∧ u.err = s.err) ∨
    ((s.nibSend b rs).busWait ≠ none ∧ (s.nibSend b rs).err = s.err ∧ (s.nibSend b rs).result = s.result) :=
  sendFrom_end_cases (nibBytes b rs).toList 0 { s with txb := nibBytes b rs, txn := 0x00#8 }

/-- Every command but SRST ends in `endCommand` with a code other than TIMEOUT, or waits for an answer that never
comes (R93, R171, R198). -/
theorem command_end_cases {i : Instr} {s t : State} (hi : i.isCommand = true) (hs : i ≠ .srst)
    (h : exec i s = .next t) :
    (∃ (u : State) (c : ResultCode), c ≠ .timeout ∧ t = u.endCommand c ∧ u.err = s.err) ∨
    (t.busWait ≠ none ∧ t.err = s.err ∧ t.result = s.result) := by
  cases i
  case srst => exact absurd rfl hs
  case hostWr => exact absurd hi (by simp [Instr.isCommand])
  case hostRd => exact absurd hi (by simp [Instr.isCommand])
  case nop => cases h; exact .inl ⟨_, .ok, by decide, rfl, rfl⟩
  case frmCrc => cases h; exact .inl ⟨_, .ok, by decide, rfl, rfl⟩
  case illegal => cases h; exact .inl ⟨_, .illegalCmd, by decide, rfl, rfl⟩
  case frmCheck =>
    simp only [exec, execFrmCheck] at h
    split_ifs at h <;> cases h <;> exact .inl ⟨_, _, by decide, rfl, rfl⟩
  case calLoad =>
    simp only [exec, execCalLoad] at h
    split_ifs at h <;> cases h <;> exact .inl ⟨_, _, by decide, rfl, rfl⟩
  case cmpTemp =>
    simp only [exec, execCmpTemp] at h
    split_ifs at h
    · cases h; exact .inl ⟨_, _, by decide, rfl, rfl⟩
    · split at h <;> cases h <;> exact .inl ⟨_, _, by decide, rfl, rfl⟩
  case cmpPres =>
    simp only [exec, execCmpPres] at h
    split_ifs at h
    · cases h; exact .inl ⟨_, _, by decide, rfl, rfl⟩
    · cases h; exact .inl ⟨_, _, by decide, rfl, rfl⟩
    · split at h <;> cases h <;> exact .inl ⟨_, _, by decide, rfl, rfl⟩
  case setCursor =>
    simp only [exec, execSetCursor] at h
    split_ifs at h
    · cases h; exact .inl ⟨_, _, by decide, rfl, rfl⟩
    · cases h; exact .inl ⟨_, _, by decide, rfl, rfl⟩
    · cases h; exact nibSend_end_cases _ _ { s with txn := 0x00#8 }
  case lcdCmd => cases h; exact nibSend_end_cases _ _ s
  case lcdData => cases h; exact nibSend_end_cases _ _ s
  all_goals cases h; exact nibSend_end_cases _ _ { s with dcs := _ }

/-- The framing loop appends to the output history at most one event for each byte, all to the display (R50, R150). -/
theorem sendFrom_port (bs : List Byte) (n : Nat) (s : State) :
    ∃ es : List BusEvent, (sendFrom bs n s).port = s.port ++ es ∧ es.length ≤ bs.length ∧
      ∀ e ∈ es, e.device = Config.lcdAddr := by
  rcases sendFrom_cases bs n s with ⟨_, he⟩ | ⟨pre, b', post, hb, _, ⟨_, he⟩ | ⟨_, he⟩⟩
  · refine ⟨bs.map fun b => ⟨Config.lcdAddr, b, .ack⟩, ?_, by simp, by simp⟩
    rw [he, afterAcks_eq]
    rfl
  · refine ⟨pre.map (fun b => ⟨Config.lcdAddr, b, .ack⟩) ++ [⟨Config.lcdAddr, b', .nack⟩], ?_, by simp [hb], ?_⟩
    · rw [he, afterAcks_eq]
      simp
    · simp only [List.mem_append, List.mem_map, List.mem_singleton]
      rintro e (⟨_, _, rfl⟩ | rfl) <;> rfl
  · refine ⟨pre.map fun b => ⟨Config.lcdAddr, b, .ack⟩, ?_, by simp [hb], by simp⟩
    rw [he, afterAcks_eq, dropAnswer_eq]

/-- The framing loop leaves in TXN at most the number of bytes it had to send (R46). -/
theorem sendFrom_txn (bs : List Byte) (n : Nat) (s : State) (hs : s.txn.toNat ≤ n) (hn : n + bs.length < 256) :
    (sendFrom bs n s).txn.toNat ≤ n + bs.length := by
  rcases sendFrom_cases bs n s with ⟨_, he⟩ | ⟨pre, b', post, hb, _, ⟨_, he⟩ | ⟨_, he⟩⟩
  · rw [he, afterAcks_eq]
    simp only [endCommand_txn]
    split_ifs
    · omega
    · rw [BitVec.toNat_ofNat]; omega
  all_goals
    have hl : pre.length ≤ bs.length := by rw [hb]; simp
    rw [he, afterAcks_eq]
    try rw [dropAnswer_eq]
    try simp only [endCommand_txn]
    split_ifs
    · omega
    · rw [BitVec.toNat_ofNat]; omega

/-- Running a list after another is running both. -/
theorem execAll_append {a b : List Instr} {s m : State} (h : execAll a s = some m) :
    execAll (a ++ b) s = execAll b m := by
  induction a generalizing s with
  | nil => cases h; rfl
  | cons i a ih =>
    simp only [execAll] at h
    split at h
    · rename_i n hn
      simp only [List.cons_append, execAll, hn]
      exact ih h
    · cases h
    · cases h

/-- The bytes of a register read together are its value (R52). -/
theorem ofBytes_bytesOf :
    (∀ v : BitVec 16, ofBytes (bytesOf 2 v) = v.toNat) ∧ (∀ v : BitVec 24, ofBytes (bytesOf 3 v) = v.toNat) ∧
    (∀ v : BitVec 32, ofBytes (bytesOf 4 v) = v.toNat) := by
  refine ⟨fun v => ?_, fun v => ?_, fun v => ?_⟩
  · rw [bytesOf_two]
    simp only [ofBytes, List.foldl, BitVec.extractLsb'_toNat, Nat.shiftRight_eq_div_pow]
    omega
  · rw [bytesOf_three]
    simp only [ofBytes, List.foldl, BitVec.extractLsb'_toNat, Nat.shiftRight_eq_div_pow]
    omega
  · rw [bytesOf_four]
    simp only [ofBytes, List.foldl, BitVec.extractLsb'_toNat, Nat.shiftRight_eq_div_pow]
    omega

end Sys2Proof.Machine
end

