-- ==== Sys2Proof/Tests/Slice0.lean ====
section
/-! SUPPORT. Tests of the model, each about one decoding or one step. Expected values come from
spec/95_test_vectors.md, named by vector (CRC-6, FRM-1, CMP-1, NIB-10, …), or from the rule named. At the end, for
each statement with hypotheses, a witness that meets them. -/

namespace Sys2Proof.Tests

open Sys2Proof Sys2Proof.Machine

/-! ## Builders -/

/-- The state after one instruction; none where it does not answer a next state. -/
def after (i : Instr) (s : State) : Option State :=
  match exec i s with
  | .next t => some t
  | .fault _ => none
  | .refused _ => none

/-- Reset, with the next answers of the environment listed. -/
def answered (l : List (Option Ack)) : State := { State.reset with answers := l }

/-- Reset, with four ACKs ahead. -/
def acked : State := answered [some .ack, some .ack, some .ack, some .ack]

/-- Reset with a frame and a CTRL value. -/
def framed (ctrl f0 f6 : Byte) : State :=
  { State.reset with ctrl := ctrl, frame := #v[f0, 0x7D#8, 0x1E#8, 0xC3#8, 0x33#8, 0x33#8, f6] }

/-- The calibration bytes DS of spec/95_test_vectors.md section 2.3. -/
def dsCalb : Vector Byte 22 :=
  #v[0x01#8, 0x98#8, 0xFF#8, 0xB8#8, 0xC7#8, 0xD1#8, 0x7F#8, 0xE5#8, 0x7F#8, 0xF5#8, 0x5A#8, 0x71#8, 0x18#8, 0x2E#8,
    0x00#8, 0x04#8, 0x80#8, 0x00#8, 0xDD#8, 0xF9#8, 0x0B#8, 0x34#8]

/-- The coefficients of DS. -/
def dsCoef : Vector (BitVec 16) 11 :=
  #v[0x0198#16, 0xFFB8#16, 0xC7D1#16, 0x7FE5#16, 0x7FF5#16, 0x5A71#16, 0x182E#16, 0x0004#16, 0x8000#16, 0xDDF9#16,
    0x0B34#16]

/-- DS loaded, with the codes of CMP-1. -/
def calibrated : State :=
  { State.reset with calb := dsCalb, coef := dsCoef, status := 0x01#8, ut := 0x6CFA#16, upraw := 0x5D2300#24 }

/-- The same after CMP_TEMP. -/
def freshened : State := { calibrated with status := 0x03#8, b5 := 2399#32, t10 := 150#32 }

/-- CMP-9: DS with AC5 = 0x8000 and UT = 0x4F3D. -/
def zeroDen : State := { calibrated with coef := dsCoef.set 4 0x8000#16, ut := 0x4F3D#16 }

/-- CMP-10: DS with AC3 = 0x382F and AC4 = 0x0001, after CMP_TEMP. -/
def zeroB4 : State := { freshened with coef := (dsCoef.set 2 0x382F#16).set 3 0x0001#16 }

/-- The bytes of the events on the port, with their answers. -/
def sent (s : State) : List (Byte × Ack) := s.port.map fun e => (e.byte, e.ack)

/-! ## Well-formedness -/

/-- R92: an ILLEGAL with a defined opcode is no instruction of its own. -/
theorem test_wf_refuses_defined_illegal :
    (definedOpcodes.all fun c => !(Instr.illegal c).wf) = true ∧ (Instr.illegal 0x10#8).wf = false := by decide

theorem test_wf_accepts : (Instr.illegal 0x12#8).wf = true ∧ Instr.nop.wf = true ∧
    (Instr.hostWr 0xFF#8 0xFF#8).wf = true := by decide

/-! ## Decoding, from the encodings of R71 and R72 -/

theorem test_decode_nop : decode (.cmd8 0b00000000#8) = .ok .nop := by decide
theorem test_decode_srst : decode (.cmd8 0b00001111#8) = .ok .srst := by decide
theorem test_decode_frmCrc : decode (.cmd8 0b00010000#8) = .ok .frmCrc := by decide
theorem test_decode_frmCheck : decode (.cmd8 0b00010001#8) = .ok .frmCheck := by decide
theorem test_decode_calLoad : decode (.cmd8 0b00100000#8) = .ok .calLoad := by decide
theorem test_decode_cmpTemp : decode (.cmd8 0b00100001#8) = .ok .cmpTemp := by decide
theorem test_decode_cmpPres : decode (.cmd8 0b00100010#8) = .ok .cmpPres := by decide
theorem test_decode_lcdCmd : decode (.cmd8 0b00110000#8) = .ok .lcdCmd := by decide
theorem test_decode_lcdData : decode (.cmd8 0b00110001#8) = .ok .lcdData := by decide
theorem test_decode_dispOn : decode (.cmd8 0b00110010#8) = .ok .dispOn := by decide
theorem test_decode_dispOff : decode (.cmd8 0b00110011#8) = .ok .dispOff := by decide
theorem test_decode_cursOn : decode (.cmd8 0b00110100#8) = .ok .cursOn := by decide
theorem test_decode_cursOff : decode (.cmd8 0b00110101#8) = .ok .cursOff := by decide
theorem test_decode_blinkOn : decode (.cmd8 0b00110110#8) = .ok .blinkOn := by decide
theorem test_decode_blinkOff : decode (.cmd8 0b00110111#8) = .ok .blinkOff := by decide
theorem test_decode_setCursor : decode (.cmd8 0b00111000#8) = .ok .setCursor := by decide
/-- CTL-3: none of these bytes is in the opcode map. -/
theorem test_decode_illegal : ([0x12#8, 0x23#8, 0x39#8, 0x01#8, 0x40#8, 0x0E#8, 0xFF#8].all fun c =>
    decide (decode (.cmd8 c) = .ok (.illegal c))) = true := by decide
/-- `wr DCS, 0x3E`: DIR 1, address 10000000, data 00111110. -/
theorem test_decode_hostWr : decode (.hostAcc 0b11000000000111110#17) = .ok (.hostWr 0x80#8 0x3E#8) := by decide
/-- `rd TXN`: DIR 0, address 10001000. -/
theorem test_decode_hostRd : decode (.hostAcc 0b01000100000000000#17) = .ok (.hostRd 0x88#8) := by decide
theorem test_decode_rejects : decode (.hostAcc 0x00255#17) = .error (.readWithData 0x55#8) := by decide

/-- Section 2.8: `cmd NOP` is `10200`, `wr CMD, 0xFF` is `102FF`, `rd CMD` is `00200`, `cmd SRST` is `1020F`. -/
theorem test_encode_words : asmCmd .nop = 0x10200#17 ∧ asmWr 0x02#8 0xFF#8 = 0x102FF#17 ∧ asmRd 0x02#8 = 0x00200#17 ∧
    asmCmd .srst = 0x1020F#17 := by decide

theorem test_decode_table : decodeTableWord 8 0x38 = some .setCursor ∧
    decodeTableWord 24 0x148FA = some (.hostWr 0x48#8 0xFA#8) ∧ decodeTableWord 24 0x07300 = some (.hostRd 0x73#8) ∧
    decodeTableWord 8 0x138 = none ∧ decodeTableWord 24 0x20000 = none := by decide

/-- A placed word runs as the next step, with the rest of the state as it was. -/
theorem test_fetch_runs : step (State.reset.withFetchWord 8 0x22) = exec .cmpPres State.reset ∧
    step (State.reset.withFetchWord 24 0x18055) = exec (.hostWr 0x80#8 0x55#8) State.reset := ⟨rfl, rfl⟩

/-- A malformed read word is refused by name, and a stuck block has no successor. -/
theorem test_step_stops : step { State.reset with pending := [.access 0x00255#17] } = .refused .undefinedHostWord ∧
    step { State.reset with busWait := some 0x4D#8 } = .fault .busNeverAnswered := ⟨rfl, rfl⟩

/-- R191: the power-on reset ends even a hang, and begins the output history anew. -/
theorem test_powerOnReset : step { freshened with
      pending := [.powerOnReset], busWait := some 0x4D#8, port := [⟨0x4E#8, 0x28#8, .ack⟩] } = .next State.reset := rfl

/-! ## Control -/

/-- CTL-1. -/
theorem test_nop : (after .nop { State.reset with result := 0x03#8, err := 0x03#8 }).map (fun t => (t.result, t.err))
    = some (0x00#8, 0x03#8) := by decide

/-- CTL-4: no register keeps its value, and the port stays. -/
theorem test_srst : (after .srst { freshened with dcs := 0x07#8, ctrl := 0x06#8, err := 0x07#8, port := [⟨0x4E#8, 0x28#8, .ack⟩] }).map
      (fun t => (t.ctrl, t.status, t.dcs, t.b5, t.err)) = some (0x01#8, 0x00#8, 0x04#8, 0#32, 0x00#8) := by decide

theorem test_srst_port : (after .srst { State.reset with port := [⟨0x4E#8, 0x28#8, .ack⟩] }).map State.port
    = some [⟨0x4E#8, 0x28#8, .ack⟩] := by decide

/-- CTL-2. -/
theorem test_illegal : after (.illegal 0xFF#8) State.reset
    = some { State.reset with result := 0x09#8, err := 0x09#8 } := by decide

/-! ## The humidity frame -/

/-- CRC-13 and CRC-14. -/
theorem test_frmCrc_match : (after .frmCrc (framed 0x01#8 0x1C#8 0x26#8)).map (fun t => (t.crcCalc, t.fstat, t.result))
    = some (0x26#8, 0x00#8, 0x00#8) := by decide +kernel
theorem test_frmCrc_mismatch : (after .frmCrc { framed 0x01#8 0x1C#8 0x27#8 with fstat := 0x04#8 }).map
    (fun t => (t.crcCalc, t.fstat, t.result)) = some (0x26#8, 0x06#8, 0x00#8) := by decide +kernel

/-- FRM-1. -/
theorem test_frmCheck_ok : (after .frmCheck (framed 0x01#8 0x1C#8 0x26#8)).map
    (fun t => (t.fstat, t.rhRaw, t.tRaw, t.rhQ20, t.tcQ20))
    = some (0x04#8, 0x07D1EC#24, 0x033333#24, 0x030E0030#32, 0xFF5FFFD8#32) := by decide +kernel
/-- FRM-6: CRC_EN = 0 does not lift the busy check. -/
theorem test_frmCheck_busy : (after .frmCheck (framed 0x00#8 0x9C#8 0x00#8)).map
    (fun t => (t.fstat, t.crcCalc, t.result, t.err, t.rhRaw)) = some (0x03#8, 0xCA#8, 0x06#8, 0x06#8, 0#24) := by
  decide +kernel

/-! ## Compensation -/

/-- CMP-1's CAL_LOAD, and CAL-3: MB is checked although no formula uses it. -/
theorem test_calLoad_ok : (after .calLoad { State.reset with calb := dsCalb, status := 0x02#8 }).map
    (fun t => (t.coef, t.status, t.result)) = some (dsCoef, 0x01#8, 0x00#8) := by decide +kernel
theorem test_calLoad_sentinel : (after .calLoad { calibrated with calb := dsCalb.set 16 0x00#8, status := 0x03#8 }).map
    (fun t => (t.coef, t.status, t.result)) = some (dsCoef, 0x00#8, 0x05#8) := by decide +kernel

/-- CMP-7: a negative T10, where truncation would give −721. -/
theorem test_cmpTemp_negative : (after .cmpTemp { calibrated with ut := 22000#16 }).map
    (fun t => (t.b5, t.t10, t.status, t.result)) = some (0xFFFFD2DC#32, 0xFFFFFD2E#32, 0x03#8, 0x00#8) := by
  decide +kernel
/-- CMP-9. -/
theorem test_cmpTemp_divZero : (after .cmpTemp zeroDen).map (fun t => (t.b5, t.t10, t.status, t.result))
    = some (0#32, 0#32, 0x01#8, 0x08#8) := by decide +kernel

/-- CMP-6: B7 at or above 2^31, OSS = 3. -/
theorem test_cmpPres_large : (after .cmpPres { freshened with upraw := 0xFFFFFF#24, ctrl := 0x07#8 }).map
    (fun t => (t.up, t.p, t.status, t.result)) = some (524287#24, 0x2FA5A#32, 0x01#8, 0x00#8) := by decide +kernel
/-- CMP-11: P wraps to a negative value. -/
theorem test_cmpPres_wraps : (after .cmpPres { freshened with coef := dsCoef.set 3 0x0001#16 }).map
    (fun t => (t.p, t.result)) = some (0x8B99987C#32, 0x00#8) := by decide +kernel

/-! ## The transmitter -/

/-- NIB-6 and NIB-11. -/
theorem test_lcdCmd : (after .lcdCmd { acked with txdata := 0x0C#8 }).map (fun t => (sent t, t.txn, t.result))
    = some ([(0x0C#8, .ack), (0x08#8, .ack), (0xCC#8, .ack), (0xC8#8, .ack)], 0x04#8, 0x00#8) := by decide
theorem test_lcdData_nack : (after .lcdData { answered [some .ack, some .ack, some .nack] with txdata := 0x41#8 }).map
    (fun t => (sent t, t.txb, t.txn, t.result, t.err))
    = some ([(0x4D#8, .ack), (0x49#8, .ack), (0x1D#8, .nack)], #v[0x4D#8, 0x49#8, 0x1D#8, 0x19#8], 0x02#8, 0x01#8,
      0x01#8) := by decide

/-- TGL-1 to TGL-7, TGL-9. -/
theorem test_dispOn : (after .dispOn { acked with dcs := 0x03#8 }).map (fun t => (t.dcs, t.txb))
    = some (0x07#8, #v[0x0C#8, 0x08#8, 0xFC#8, 0xF8#8]) := by decide
theorem test_dispOff : (after .dispOff { acked with dcs := 0x07#8 }).map (fun t => (t.dcs, t.txb))
    = some (0x03#8, #v[0x0C#8, 0x08#8, 0xBC#8, 0xB8#8]) := by decide
theorem test_cursOn : (after .cursOn acked).map (fun t => (t.dcs, t.txb))
    = some (0x06#8, #v[0x0C#8, 0x08#8, 0xEC#8, 0xE8#8]) := by decide
theorem test_cursOn_nack : (after .cursOn (answered [some .nack])).map (fun t => (sent t, t.dcs, t.txn, t.result))
    = some ([(0x0C#8, .nack)], 0x06#8, 0x00#8, 0x01#8) := by decide
theorem test_cursOff : (after .cursOff { acked with dcs := 0x07#8 }).map (fun t => (t.dcs, t.txb))
    = some (0x05#8, #v[0x0C#8, 0x08#8, 0xDC#8, 0xD8#8]) := by decide
theorem test_blinkOn : (after .blinkOn acked).map (fun t => (t.dcs, t.txb))
    = some (0x05#8, #v[0x0C#8, 0x08#8, 0xDC#8, 0xD8#8]) := by decide
theorem test_blinkOff : (after .blinkOff { acked with dcs := 0x05#8 }).map (fun t => (t.dcs, t.txb))
    = some (0x04#8, #v[0x0C#8, 0x08#8, 0xCC#8, 0xC8#8]) := by decide

/-- CUR-3 and CUR-6. -/
theorem test_setCursor_last : (after .setCursor { acked with curRow := 0x01#8, curCol := 0x27#8 }).map
    (fun t => (sent t, t.txn, t.result))
    = some ([(0xEC#8, .ack), (0xE8#8, .ack), (0x7C#8, .ack), (0x78#8, .ack)], 0x04#8, 0x00#8) := by decide
theorem test_setCursor_rejects : (after .setCursor { acked with curCol := 0x28#8, txn := 0x04#8 }).map
    (fun t => (sent t, t.txn, t.result, t.err)) = some ([], 0x00#8, 0x04#8, 0x04#8) := by decide

/-! ## Host accesses -/

/-- CTL-8 and CMP-16. -/
theorem test_hostWr_ctrl : (after (.hostWr 0x00#8 0xFF#8) State.reset).map State.ctrl = some 0x07#8 := by decide
theorem test_hostWr_ut : (after (.hostWr 0x49#8 0xFA#8) freshened).map (fun t => (t.ut, t.status))
    = some (0x6CFA#16, 0x01#8) := by decide

/-- Program P2's `rd P+3`, and CTL-5. -/
theorem test_hostRd : (after (.hostRd 0x73#8) { State.reset with p := 0x0001114C#32 }).map State.reads
    = some [(0x73#8, 0x4C#8)] := by decide
theorem test_hostRd_cmd : (after (.hostRd 0x02#8) State.reset).map State.reads = some [(0x02#8, 0x00#8)] := by decide

/-! ## Witnesses: what the statements assume can be met -/

/-- DecodeOfEncodeGivesTheInstruction, StepRunsTheDecodedInstruction. -/
theorem witness_wellFormed : (Instr.illegal 0x01#8).wf = true ∧ (Instr.illegal 0xFF#8).wf = true ∧
    (Instr.hostRd 0xFF#8).wf = true ∧ Instr.setCursor.wf = true := by decide

/-- EncodeOfDecodeGivesTheCode: in both formats, at the ends of the opcode map. -/
theorem witness_decodes : decode (.cmd8 0x38#8) = .ok .setCursor ∧ decode (.cmd8 0x39#8) = .ok (.illegal 0x39#8) ∧
    decode (.hostAcc 0x1FFFF#17) = .ok (.hostWr 0xFF#8 0xFF#8) ∧ decode (.hostAcc 0x0FF00#17) = .ok (.hostRd 0xFF#8) := by
  decide

/-- ToggleOpcodesSelectMaskAndDirection. -/
theorem witness_toggleOpcode : (0x32#8 : Byte) ≤ 0x32#8 ∧ (0x37#8 : Byte) ≤ 0x37#8 := by decide

/-- StepRunsTheDecodedInstruction. -/
theorem witness_stepRuns : Instr.frmCrc.wf = true ∧
    (State.reset.withFetchWord 8 0x10).busWait = none ∧
    (State.reset.withFetchWord 8 0x10).pending = .access (hostWordOf (encode .frmCrc)) :: [] := by decide

/-- IdleBlockHoldsItsState. -/
theorem witness_idle : State.reset.pending = [] ∧ State.reset.busWait = none := ⟨rfl, rfl⟩

/-- UndefinedOpcodeOnlyReportsIllegal: beside the defined opcodes and at the end of the range. -/
theorem witness_undefinedOpcode : 0x01#8 ∉ definedOpcodes ∧ 0x39#8 ∉ definedOpcodes ∧ 0xFF#8 ∉ definedOpcodes := by
  decide

/-- FirstFailureIsLatched: a failing command, and SRST. -/
theorem witness_latch : (∃ t, Instr.frmCheck.isCommand = true ∧ Instr.frmCheck ≠ .srst ∧
    exec .frmCheck State.reset = .next t ∧ t.busWait = none) ∧ ∃ t, exec .srst State.reset = .next t :=
  ⟨⟨_, rfl, by decide, execFrmCheck_crc (by decide +kernel) (by decide +kernel) (by decide +kernel), rfl⟩, _, rfl⟩

/-- ErrKeepsTheFirstFailureOfASequence: ERR already latched, and latched by the sequence. -/
theorem witness_errSequence :
    (∃ t, (∀ i ∈ [Instr.illegal 0xFF#8, .nop], i.clearsErr = false) ∧
      execAll [.illegal 0xFF#8, .nop] { State.reset with err := 0x07#8 } = some t) ∧
    ∃ t, execAll [.illegal 0xFF#8, .nop] State.reset = some t ∧ State.reset.err = 0x00#8 ∧ t.err ≠ 0x00#8 :=
  ⟨⟨_, by decide, rfl⟩, _, rfl, rfl, by decide⟩

/-- ErrKeepsTheFirstFailureOfASequence, third clause: a command that completes with a failure, first from ERR = 0x00 and
then from ERR = 0x07. -/
theorem witness_errLatches : ∃ n n', [Instr.illegal 0xFF#8, .nop] = [] ++ .illegal 0xFF#8 :: [.nop] ∧
    execAll [] State.reset = some State.reset ∧ exec (.illegal 0xFF#8) State.reset = .next n ∧
    (Instr.illegal 0xFF#8).performed.isCommand = true ∧ n.busWait = none ∧ n.result ≠ 0x00#8 ∧
    State.reset.err = 0x00#8 ∧ exec (.illegal 0xFF#8) { State.reset with err := 0x07#8 } = .next n' ∧
    n'.result ≠ 0x00#8 :=
  ⟨_, _, rfl, rfl, rfl, rfl, rfl, by decide, rfl, rfl, by decide⟩

/-- FrmCheckAcceptsAndConverts: CRC_EN = 0 with a wrong CRC at the highest FRAME0 that is not busy; a matching CRC. -/
theorem witness_frameAccepted :
    ((framed 0x00#8 0x7F#8 0x00#8).frame[0].toNat < 128 ∧ (framed 0x00#8 0x7F#8 0x00#8).crcEn = false) ∧
    (framed 0x01#8 0x1C#8 0x26#8).frame[0].toNat < 128 ∧
    crc8 [0x1C#8, 0x7D#8, 0x1E#8, 0xC3#8, 0x33#8, 0x33#8] = (framed 0x01#8 0x1C#8 0x26#8).frame[6] := by decide +kernel

/-- FrmCheckRejectsBusyThenCrc: the lowest busy FRAME0, and the highest one that is not busy with a mismatch. -/
theorem witness_frameRejected : 128 ≤ (framed 0x00#8 0x80#8 0x00#8).frame[0].toNat ∧
    (framed 0x01#8 0x7F#8 0x00#8).frame[0].toNat < 128 ∧ (framed 0x01#8 0x7F#8 0x00#8).crcEn = true ∧
    crc8 [0x7F#8, 0x7D#8, 0x1E#8, 0xC3#8, 0x33#8, 0x33#8] ≠ (framed 0x01#8 0x7F#8 0x00#8).frame[6] := by
  decide +kernel

/-- FrmCheckReadsOnlyFrameAndGate: two states that differ in OSS, ERR and DCS. -/
theorem witness_frameInputs : ∃ t t',
    (framed 0x01#8 0x9C#8 0x00#8).frame = { framed 0x07#8 0x9C#8 0x00#8 with err := 0x01#8, dcs := 0x00#8 }.frame ∧
    (framed 0x01#8 0x9C#8 0x00#8).crcEn = { framed 0x07#8 0x9C#8 0x00#8 with err := 0x01#8, dcs := 0x00#8 }.crcEn ∧
    exec .frmCheck (framed 0x01#8 0x9C#8 0x00#8) = .next t ∧
    exec .frmCheck { framed 0x07#8 0x9C#8 0x00#8 with err := 0x01#8, dcs := 0x00#8 } = .next t' :=
  ⟨_, _, rfl, by decide, execFrmCheck_busy (by decide), execFrmCheck_busy (by decide)⟩

/-- AnySingleBitFlipChangesTheCrc: the first and the last bit. -/
theorem witness_bitFlip : [0x00#8, 0x00#8, 0x00#8, 0x00#8, 0x00#8, (0x00#8 : Byte)].length = 6 ∧ 0 < 6 ∧ 5 < 6 ∧ 0 < 8 ∧
    7 < 8 := by decide

/-- CalLoadAcceptsExactlyNonSentinels: values next to the sentinels, and each sentinel. -/
theorem witness_calibration :
    (∀ k : Fin 11, ((dsCalb.set 0 0x00#8).set 1 0x01#8)[2 * k.val].toNat * 256 +
      ((dsCalb.set 0 0x00#8).set 1 0x01#8)[2 * k.val + 1].toNat ∉ [0, 65535]) ∧
    (∀ k : Fin 11, ((dsCalb.set 20 0xFF#8).set 21 0xFE#8)[2 * k.val].toNat * 256 +
      ((dsCalb.set 20 0xFF#8).set 21 0xFE#8)[2 * k.val + 1].toNat ∉ [0, 65535]) ∧
    (∃ k : Fin 11, State.reset.calb[2 * k.val].toNat * 256 + State.reset.calb[2 * k.val + 1].toNat = 0) ∧
    ∃ k : Fin 11, ((dsCalb.set 20 0xFF#8).set 21 0xFF#8)[2 * k.val].toNat * 256 +
      ((dsCalb.set 20 0xFF#8).set 21 0xFF#8)[2 * k.val + 1].toNat = 65535 := by
  decide +kernel

/-- CmpTempComputesB5AndT10, in the statement's own terms: X1 = 4743 and the divisor 7611 (CMP-1). -/
theorem witness_cmpTemp : calibrated.calValid = true ∧
    (BitVec.ofInt 32 (((BitVec.ofInt 32 (((27898 : Int) - 23153) * 32757)).toInt).fdiv 32768 + 2868)).toInt = 7611 := by
  decide +kernel

/-- CmpTempFailuresKeepB5: uncalibrated, and CMP-9's divisor 0. -/
theorem witness_cmpTempFailures : State.reset.calValid = false ∧ zeroDen.calValid = true ∧
    (BitVec.ofInt 32 (((BitVec.ofInt 32 (((zeroDen.ut.toNat : Int) - (zeroDen.coef[5].toNat : Int)) *
      (zeroDen.coef[4].toNat : Int))).toInt).fdiv 32768 + zeroDen.coef[10].toInt)).toInt = 0 := by decide +kernel

/-- CmpPresConsumesB5: CMP-1, and CMP-10's B4 = 0. -/
theorem witness_cmpPres : freshened.calValid = true ∧ freshened.b5Fresh = true ∧
    pcomp .floor freshened.coef freshened.b5.toInt ((freshened.upraw.toNat / 2 ^ (8 - freshened.oss) : Nat) : Int)
      freshened.oss = some 69964 ∧
    zeroB4.calValid = true ∧ zeroB4.b5Fresh = true ∧
    pcomp .floor zeroB4.coef zeroB4.b5.toInt ((zeroB4.upraw.toNat / 2 ^ (8 - zeroB4.oss) : Nat) : Int)
      zeroB4.oss = none := by decide +kernel

/-- CmpPresRefusesUncalibratedThenStale. -/
theorem witness_cmpPresRefuses : State.reset.calValid = false ∧ calibrated.calValid = true ∧
    calibrated.b5Fresh = false := by decide

/-- PressureIsThe32BitDatapath: CMP-5 wraps UP − B3 at OSS = 0. -/
theorem witness_datapath : 0 < 4 ∧ 3 < 4 ∧ pcomp .floor dsCoef (2399#32).toInt ((0#32 : BitVec 32).toNat : Int) 0
    = some 252712 := by decide +kernel

/-- DatasheetExampleIsReproduced. -/
theorem witness_datasheet : calibrated.calb.toList = dsCalb.toList ∧ calibrated.ut = 27898#16 ∧
    calibrated.upraw = 0x5D2300#24 ∧ calibrated.oss = 0 := by decide

/-- CompensationDependsOnItsInputsAlone: states that differ in the frame and in ERR. -/
theorem witness_compensationInputs :
    (∃ t t', calibrated.coef = { calibrated with err := 0x07#8 }.coef ∧
      exec .cmpTemp calibrated = .next t ∧ exec .cmpTemp { calibrated with err := 0x07#8 } = .next t' ∧
      t.result = 0x00#8 ∧ t'.result = 0x00#8) ∧
    ∃ t t', exec .cmpPres freshened = .next t ∧ exec .cmpPres { freshened with err := 0x07#8 } = .next t' ∧
      t.result = 0x00#8 ∧ t'.result = 0x00#8 :=
  ⟨⟨_, _, rfl, execCmpTemp_ok (by decide) (by decide +kernel), execCmpTemp_ok (by decide) (by decide +kernel), rfl, rfl⟩,
   _, _, execCmpPres_ok (pv := 69964) (by decide) (by decide) (by decide +kernel),
   execCmpPres_ok (pv := 69964) (by decide) (by decide) (by decide +kernel), rfl, rfl⟩

/-- OnlyCmpTempMakesB5Fresh: made fresh by CMP_TEMP, and kept fresh by another instruction. -/
theorem witness_fresh : (∃ t, exec .cmpTemp calibrated = .next t ∧ t.b5Fresh = true) ∧
    ∃ t, exec (.hostWr 0x4A#8 0x00#8) freshened = .next t ∧ t.b5Fresh = true :=
  ⟨⟨_, execCmpTemp_ok (by decide) (by decide +kernel), rfl⟩, _, rfl, rfl⟩

/-- EverySuccessfulPressureUsesTheLatestTemperature. -/
theorem witness_pressureSequence : ∃ u t, calibrated.b5Fresh = false ∧ execAll [.cmpTemp, .nop] calibrated = some u ∧
    exec .cmpPres u = .next t ∧ t.result = 0x00#8 := by
  have e := execCmpTemp_ok (s := calibrated) (by decide) (by decide +kernel)
  have p := execCmpPres_ok (pv := 69964) (s := State.endCommand (State.endCommand
    ((calibrated.setB5Fresh false).tempWritten (tempB5 Config.divRound calibrated.coef calibrated.utCode)) .ok) .ok)
    (by decide +kernel) (by decide +kernel) (by decide +kernel)
  exact ⟨_, _, by decide, by simp only [execAll, exec, e, execNop], p, rfl⟩

/-- BusBytesFrameTheNibbles. -/
theorem witness_registerSelect : ((0x00#8 : Byte) = 0x00#8 ∨ (0x00#8 : Byte) = 0x01#8) ∧
    ((0x01#8 : Byte) = 0x00#8 ∨ (0x01#8 : Byte) = 0x01#8) := by decide

/-- LcdCommandsSendTxdata, TogglesResendTheWholeDcs, SetCursorSendsTheDdramAddress: four ACKs ahead, and the cursor's
four corners. -/
theorem witness_acked : acked.FourAcks ∧ acked.busWait = none ∧
    (Instr.lcdCmd, 0) ∈ [(Instr.lcdCmd, 0), (.lcdData, 1)] ∧ (Instr.blinkOff, 0x01#8, false) ∈ toggleTable ∧
    (Instr.dispOn, 0x04#8, true) ∈ toggleTable := by
  refine ⟨fun i hi => ?_, rfl, by decide, by decide, by decide⟩
  match i, hi with
  | 0, _ | 1, _ | 2, _ | 3, _ => rfl

theorem witness_cursor : ([0x00#8, 0x01#8].all fun r => [0x00#8, 0x27#8].all fun col =>
    decide ({ acked with curRow := r, curCol := col }.curRow.toNat ≤ 1) &&
    decide ({ acked with curRow := r, curCol := col }.curCol.toNat ≤ 39)) = true := by decide

/-- SetCursorRejectsOutOfRange: the first row and the first column out of range. -/
theorem witness_cursorRejects : 2 ≤ { acked with curRow := 0x02#8 }.curRow.toNat ∧
    40 ≤ { acked with curCol := 0x28#8 }.curCol.toNat := by decide

/-- The state whose `j`-th bus write from now is answered `a`, the earlier ones ACK. -/
def answeredAt (j : Nat) (a : Option Ack) : State := answered (List.replicate j (some .ack) ++ [a])

theorem answeredAt_zero_three (a : Option Ack) : (answeredAt 0 a).answerAt 0 = a ∧ (answeredAt 3 a).answerAt 3 = a ∧
    (answeredAt 0 a).AcksBefore 0 ∧ (answeredAt 3 a).AcksBefore 3 := by
  refine ⟨rfl, rfl, fun i hi => absurd hi (Nat.not_lt_zero i), fun i hi => ?_⟩
  match i, hi with
  | 0, _ | 1, _ | 2, _ => rfl

/-- FirstNackStopsTheCommand and UnansweredWriteIsAStuckState: the first and the last write, every kind of command. -/
theorem witness_nack : (answeredAt 0 (some .nack)).answerAt 0 = some .nack ∧
    (answeredAt 3 (some .nack)).AcksBefore 3 ∧ (answeredAt 3 (some .nack)).answerAt 3 = some .nack ∧
    (answeredAt 3 none).answerAt 3 = none ∧ (answeredAt 3 none).AcksBefore 3 ∧
    (answeredAt 3 none).busWait = none ∧ 3 < 4 :=
  ⟨rfl, (answeredAt_zero_three _).2.2.2, rfl, rfl, (answeredAt_zero_three _).2.2.2, rfl, by decide⟩

theorem witness_sends : Sends .lcdData acked acked.txdata 1 ∧
    Sends .dispOff acked (0x08#8 ||| toggledDcs 0x04#8 false acked.dcs) 0 ∧
    Sends .setCursor { acked with curCol := 0x27#8 } (BitVec.ofNat 8 (128 + 39)) 0 ∧
    Sends .setCursor { acked with curRow := 0x01#8, curCol := 0x27#8 } (BitVec.ofNat 8 (128 + 64 + 39)) 0 :=
  ⟨.lcdData acked, .toggle acked .dispOff 0x04#8 false (by decide),
   .row0 { acked with curCol := 0x27#8 } rfl (by decide),
   .row1 { acked with curRow := 0x01#8, curCol := 0x27#8 } rfl (by decide)⟩

/-- FirstNackStopsTheCommand, the clauses about DCS: a toggle, and a command that is none. -/
theorem witness_nackDcs : (Instr.dispOff, 0x04#8, false) ∈ toggleTable ∧
    (∀ mask on, (Instr.lcdData, mask, on) ∉ toggleTable) ∧ (∀ mask on, (Instr.setCursor, mask, on) ∉ toggleTable) := by
  simp [toggleTable]

/-- UnansweredWriteIsAStuckState, second clause. -/
theorem witness_stuck : State.Stuck { State.reset with busWait := some 0x4D#8 } := by
  simp [State.Stuck, State.ResetComes, State.reset]

/-- TogglesKeepTheOtherBits: S4's DISP_ON and CURS_OFF leave the blink bit. -/
theorem witness_toggleSequence : ∃ t, (∀ x ∈ [(Instr.dispOn, 0x04#8, true), (Instr.cursOff, 0x02#8, false)], x ∈ toggleTable) ∧
    (0 < 3) ∧ (∀ x ∈ [(Instr.dispOn, (0x04#8 : Byte), true), (Instr.cursOff, 0x02#8, false)], x.2.1.getLsbD 0 = false) ∧
    execAll [.dispOn, .cursOff] acked = some t :=
  ⟨_, by decide, by decide, by decide, rfl⟩

/-- OnlyNibCommandsWriteThePort: an instruction of each kind. -/
theorem witness_port : (Instr.hostWr 0x02#8 0x00#8).performed ∉ nibCommands ∧
    (Instr.hostWr 0x02#8 0x38#8).performed ∈ nibCommands ∧ ∃ t, exec (.hostWr 0x02#8 0x00#8) acked = .next t :=
  ⟨by decide, by decide, _, rfl⟩

/-- ReservedSpaceReadsZeroAndIgnoresWrites: at the ends of the ranges, no address is both reserved and read-only. -/
theorem witness_reserved : ([0x05#8, 0x0F#8, 0x1F#8, 0x28#8, 0x2F#8, 0x46#8, 0x47#8, 0x4D#8, 0x4F#8, 0x66#8, 0x67#8, 0x77#8,
      0x7F#8, 0x89#8, 0xFF#8].all fun a => decide (locate a = none)) = true ∧
    ([0x01#8, 0x03#8, 0x17#8, 0x1E#8, 0x20#8, 0x27#8, 0x50#8, 0x65#8, 0x68#8, 0x76#8, 0x84#8, 0x88#8].all fun a =>
      (locate a).any fun x => decide (x.1.access = .ro)) = true := by decide

/-- HostWriteStoresOneByte: at the ends of the ranges. -/
theorem witness_stored : ([0x10#8, 0x16#8, 0x30#8, 0x45#8, 0x48#8, 0x49#8, 0x4A#8, 0x4C#8, 0x81#8, 0x83#8].all fun a =>
      (locate a).any fun x => decide (x.1.access = .rw)) = true := by decide

/-- CommandsWriteOnlyTheirListedRegisters. -/
theorem witness_command : Instr.nop.isCommand = true ∧ ∃ t, exec .nop State.reset = .next t := ⟨rfl, _, rfl⟩

/-- The step invariants: reset meets each of them, and a step from it with a command pending answers a next state. -/
theorem witness_invariants : State.InRange { State.reset with pending := [.access 0x10200#17] } ∧
    State.ReservedClear { State.reset with pending := [.access 0x10200#17] } ∧
    State.CodesProduced { State.reset with pending := [.access 0x10200#17] } ∧
    State.CalibrationUsable { State.reset with pending := [.access 0x10200#17] } ∧
    ∃ t, step { State.reset with pending := [.access 0x10200#17] } = .next t :=
  ⟨⟨by decide, by decide, by decide, by decide, by decide, by decide, by decide, by decide⟩,
   ⟨by decide, by decide, by decide, by decide, by decide⟩, ⟨by decide, by decide⟩, fun h => absurd h (by decide), _, rfl⟩

end Sys2Proof.Tests
end

/-! SUPPORT and PROOFS for the registers of spec/10_state.md: what a step can do to a property of the state, said once
and then applied to the invariants of R48 and of the reserved bits; the register map read address by address; and the
life of B5_FRESH (R26). -/

namespace Sys2Proof.Machine

/-! ## Bytes and flags -/

/-- Writing bit `i` keeps a byte below a power of two above that bit. -/
theorem setBit_toNat_lt {v : Byte} {i n : Nat} (b : Bool) (hv : v.toNat < 2 ^ n) (hi : i < n) :
    (setBit v i b).toNat < 2 ^ n := by
  cases b
  · simp only [setBit, Bool.false_eq_true, if_false, BitVec.toNat_and]
    exact Nat.and_le_left.trans_lt hv
  · simp only [setBit, if_true, BitVec.toNat_or, BitVec.toNat_shiftLeft, BitVec.toNat_ofNat]
    refine Nat.or_lt_two_pow hv ((Nat.mod_le _ _).trans_lt ?_)
    simpa [Nat.shiftLeft_eq] using Nat.pow_lt_pow_right (by decide) hi

theorem or_toNat_le_seven {v m : Byte} (hv : v.toNat ≤ 7) (hm : m.toNat ≤ 7) : (v ||| m).toNat ≤ 7 := by
  rw [BitVec.toNat_or]
  exact Nat.le_of_lt_succ (Nat.or_lt_two_pow (n := 3) (by omega) (by omega))

theorem and_toNat_le_left (v m : Byte) : (v &&& m).toNat ≤ v.toNat := by
  rw [BitVec.toNat_and]
  exact Nat.and_le_left

theorem and_toNat_le_right (v m : Byte) : (v &&& m).toNat ≤ m.toNat := by
  rw [BitVec.toNat_and]
  exact Nat.and_le_right

/-- A byte below `2 ^ n` has no bit at `n` or above. -/
theorem and_highBits_eq_zero {v : Byte} {n : Nat} (hv : v.toNat < 2 ^ n) : v &&& (BitVec.allOnes 8 <<< n) = 0#8 := by
  apply BitVec.eq_of_getLsbD_eq
  intro i hi
  by_cases hin : i < n
  · simp [hin]
  · have hbit : v.getLsbD i = false :=
      Nat.testBit_lt_two_pow (hv.trans_le (Nat.pow_le_pow_right (by decide) (by omega)))
    simp [hbit]

@[simp] theorem calValid_tempWritten (s : State) (v : Int) : (s.tempWritten v).calValid = s.calValid :=
  (setBit_other s.status true).1

@[simp] theorem b5Fresh_presWritten (s : State) (v : Int) : (s.presWritten v).b5Fresh = s.b5Fresh := rfl

@[simp] theorem fValid_setMismatch (s : State) (b : Bool) : (s.setMismatch b).fValid = s.fValid :=
  (setBit_other s.fstat b).2.2.1

@[simp] theorem fBusy_setMismatch (s : State) (b : Bool) : (s.setMismatch b).fBusy = s.fBusy :=
  (setBit_other s.fstat b).1

/-- A frame check starts with VALID at 0 (R104). -/
@[simp] theorem fValid_frameFlags (s : State) : s.frameFlags.fValid = false := by
  have h : ∀ m b : Bool, (fstatWord m b).getLsbD 2 = false := by decide
  exact h _ _

@[simp] theorem fBusy_frameFlags (s : State) : s.frameFlags.fBusy = s.frameBusy := by
  have h : ∀ m b : Bool, (fstatWord m b).getLsbD 0 = b := by decide
  exact h _ _

@[simp] theorem fBusy_frameDecoded (s : State) : s.frameDecoded.fBusy = s.fBusy :=
  (setBit_other s.fstat true).2.2.2.1

theorem frameFlags_fstat_le (s : State) : s.frameFlags.fstat.toNat ≤ 3 := by
  have h : ∀ m b : Bool, (fstatWord m b).toNat ≤ 3 := by decide
  exact h _ _

/-! ## The framing loop's frame -/

/-- The framing loop changes TXN, RESULT, ERR, the port and the answers only. -/
theorem sendFrom_eq (bs : List Byte) (n : Nat) (s : State) :
    sendFrom bs n s =
      { s with
        txn := (sendFrom bs n s).txn
        result := (sendFrom bs n s).result
        err := (sendFrom bs n s).err
        port := (sendFrom bs n s).port
        answers := (sendFrom bs n s).answers
        draws := (sendFrom bs n s).draws
        busWait := (sendFrom bs n s).busWait } := by
  rcases sendFrom_cases bs n s with ⟨_, he⟩ | ⟨pre, b, post, _, _, ⟨_, he⟩ | ⟨_, he⟩⟩
  · rw [he, afterAcks_eq]
    rfl
  · rw [he, afterAcks_eq, dropAnswer_eq]
    rfl
  · rw [he, afterAcks_eq, dropAnswer_eq]

/-- `nib_send` changes TXB besides. -/
theorem nibSend_eq (b rs : Byte) (s : State) :
    s.nibSend b rs =
      { s with
        txb := nibBytes b rs
        txn := (s.nibSend b rs).txn
        result := (s.nibSend b rs).result
        err := (s.nibSend b rs).err
        port := (s.nibSend b rs).port
        answers := (s.nibSend b rs).answers
        draws := (s.nibSend b rs).draws
        busWait := (s.nibSend b rs).busWait } :=
  sendFrom_eq (nibBytes b rs).toList 0 { s with txb := nibBytes b rs, txn := 0x00#8 }

/-- `nib_send` leaves at most 4 in TXN (R46). -/
theorem nibSend_txn_le (b rs : Byte) (s : State) : (s.nibSend b rs).txn.toNat ≤ 4 :=
  sendFrom_txn (nibBytes b rs).toList 0 { s with txb := nibBytes b rs, txn := 0x00#8 } (Nat.le_refl 0) (by simp)

/-! ## A HostWrite to CMD is the command -/

/-- The opcode map of R72 in the meanings is the decoder's. -/
theorem performOpcode_eq (c : Byte) (s : State) : performOpcode c s = exec (decodeCommand c) s := by
  unfold performOpcode
  split
  case h_17 =>
    have hc : definedOpcodes.contains c = false := by
      simp only [definedOpcodes, List.contains_eq_mem, decide_eq_false_iff_not, List.mem_cons, List.not_mem_nil,
        or_false]
      rintro (rfl | rfl | rfl | rfl | rfl | rfl | rfl | rfl | rfl | rfl | rfl | rfl | rfl | rfl | rfl | rfl) <;>
        simp_all
    rw [decodeCommand_illegal c hc]
    rfl
  all_goals
    rename_i hc
    obtain ⟨-, rfl⟩ := BitVec.toNat_eq_nat.mp hc
    rfl

/-- Settles O47: the opcode map is followed line by line. -/
theorem writeToCmdPerformsTheCommand : Obligations.WriteToCmdPerformsTheCommand := performOpcode_eq

/-- What a command byte decodes to is a command. -/
theorem isCommand_decodeCommand (c : Byte) : (decodeCommand c).isCommand = true := by
  revert c; decide +kernel

theorem performed_of_isCommand {i : Instr} (h : i.isCommand = true) : i.performed = i := by
  cases i
  case hostWr | hostRd => cases h
  all_goals rfl

/-- An instruction and the command it performs answer the same (R60). -/
theorem exec_performed (i : Instr) (s : State) : exec i.performed s = exec i s := by
  cases i
  case hostWr a c =>
    by_cases ha : a = 0x02#8
    · subst ha
      exact (performOpcode_eq c s).symm
    · simp only [Instr.performed, if_neg ha]
  all_goals rfl

/-! ## What every operation keeps, every step keeps -/

/-- `P` is kept by each operation the instructions are made of and by each change of the host's side. Where an
operation is performed under a condition, or always after another, it is asked of `P` only there. -/
structure KeptByOperations (P : State → Prop) : Prop where
  pending (s : State) (es : List HostEvent) : P s → P { s with pending := es }
  reads (s : State) (rs : List (Byte × Byte)) : P s → P { s with reads := rs }
  powerOnReset (s : State) : P s.powerOnReset
  softReset (s : State) : P s.softReset
  endCommand (s : State) (c : ResultCode) : c ≠ .timeout → P s → P (s.endCommand c)
  clearErr (s : State) : P s → P { s with err := 0x00#8 }
  storeByte (s : State) (r : Reg) (k : Nat) (b : Byte) : P s → P (s.storeByte r k b)
  crcReported (s : State) (c : Byte) (m : Bool) : P s → P ({ s with crcCalc := c }.setMismatch m)
  frameFlags (s : State) : P s → P s.frameFlags
  frameDecoded (s : State) : s.frameBusy = false → P s → P s.frameFlags.frameDecoded
  calRejected (s : State) : P s → P ((s.setB5Fresh false).setCalValid false)
  calAccepted (s : State) : hasSentinel s.calParse = false → P s →
    P ({ s.setB5Fresh false with coef := s.calParse }.setCalValid true)
  b5Consumed (s : State) : P s → P (s.setB5Fresh false)
  tempWritten (s : State) (b5v : Int) : s.calValid = true → P s → P ((s.setB5Fresh false).tempWritten b5v)
  presWritten (s : State) (pv : Int) : P s → P ((s.setB5Fresh false).presWritten pv)
  txnCleared (s : State) : P s → P { s with txn := 0x00#8 }
  dcsWritten (s : State) (d : Byte) : (s.dcs.toNat ≤ 7 → d.toNat ≤ 7) → P s → P { s with dcs := d }
  nibSend (s : State) (b rs : Byte) : P s → P (s.nibSend b rs)

namespace KeptByOperations

variable {P : State → Prop} (hP : KeptByOperations P)
include hP

theorem resendDcs (s : State) (d : Byte) (hd : s.dcs.toNat ≤ 7 → d.toNat ≤ 7) (hs : P s) : P (s.resendDcs d) :=
  hP.nibSend _ _ _ (hP.dcsWritten s d hd hs)

/-- A toggle that sets a bit of DCS. -/
theorem dcsBitSet (s : State) (m : Byte) (hm : m.toNat ≤ 7) (hs : P s) : P (s.resendDcs (s.dcs ||| m)) :=
  hP.resendDcs s _ (or_toNat_le_seven · hm) hs

/-- A toggle that clears a bit of DCS. -/
theorem dcsBitCleared (s : State) (m : Byte) (hs : P s) : P (s.resendDcs (s.dcs &&& m)) :=
  hP.resendDcs s _ (and_toNat_le_left s.dcs m).trans hs

/-- A command is made of the operations (R93). -/
theorem of_command {i : Instr} {s t : State} (hi : i.isCommand = true) (h : exec i s = .next t) (hs : P s) : P t := by
  cases i
  case hostWr => cases hi
  case hostRd => cases hi
  case nop => cases h; exact hP.endCommand s .ok (by decide) hs
  case illegal => cases h; exact hP.endCommand s .illegalCmd (by decide) hs
  case srst => cases h; exact hP.softReset s
  case frmCrc => cases h; exact hP.endCommand _ .ok (by decide) (hP.crcReported s _ _ hs)
  case frmCheck =>
    simp only [exec, execFrmCheck] at h
    split_ifs at h with hb <;> cases h
    · exact hP.endCommand _ .frameBusy (by decide) (hP.frameFlags s hs)
    · exact hP.endCommand _ .crcError (by decide) (hP.frameFlags s hs)
    · exact hP.endCommand _ .ok (by decide) (hP.frameDecoded s (by simpa using hb) hs)
  case calLoad =>
    simp only [exec, execCalLoad] at h
    split_ifs at h with hr <;> cases h
    · exact hP.endCommand _ .invalidCalibration (by decide) (hP.calRejected s hs)
    · exact hP.endCommand _ .ok (by decide) (hP.calAccepted s (by simpa using hr) hs)
  case cmpTemp =>
    simp only [exec, execCmpTemp] at h
    split_ifs at h with hv
    · cases h; exact hP.endCommand _ .invalidCalibration (by decide) (hP.b5Consumed s hs)
    · split at h <;> cases h
      · exact hP.endCommand _ .divZero (by decide) (hP.b5Consumed s hs)
      · exact hP.endCommand _ .ok (by decide) (hP.tempWritten s _ (by simpa using hv) hs)
  case cmpPres =>
    simp only [exec, execCmpPres] at h
    split_ifs at h
    · cases h; exact hP.endCommand _ .invalidCalibration (by decide) (hP.b5Consumed s hs)
    · cases h; exact hP.endCommand _ .staleB5 (by decide) (hP.b5Consumed s hs)
    · split at h <;> cases h
      · exact hP.endCommand _ .divZero (by decide) (hP.b5Consumed s hs)
      · exact hP.endCommand _ .ok (by decide) (hP.presWritten s _ hs)
  case setCursor =>
    simp only [exec, execSetCursor] at h
    split_ifs at h <;> cases h
    · exact hP.endCommand _ .invalidArgument (by decide) (hP.txnCleared s hs)
    · exact hP.endCommand _ .invalidArgument (by decide) (hP.txnCleared s hs)
    · exact hP.nibSend _ _ _ (hP.txnCleared s hs)
  case lcdCmd => cases h; exact hP.nibSend s _ _ hs
  case lcdData => cases h; exact hP.nibSend s _ _ hs
  case dispOn => cases h; exact hP.dcsBitSet s _ (by decide) hs
  case cursOn => cases h; exact hP.dcsBitSet s _ (by decide) hs
  case blinkOn => cases h; exact hP.dcsBitSet s _ (by decide) hs
  case dispOff => cases h; exact hP.dcsBitCleared s _ hs
  case cursOff => cases h; exact hP.dcsBitCleared s _ hs
  case blinkOff => cases h; exact hP.dcsBitCleared s _ hs

/-- A HostWrite performs a command, clears ERR, stores a byte or is ignored. -/
theorem of_hostWr {a b : Byte} {s t : State} (h : exec (.hostWr a b) s = .next t) (hs : P s) : P t := by
  change execHostWr a b s = .next t at h
  rcases execHostWr_cases a b s with ⟨_, he⟩ | ⟨_, he⟩ | ⟨r, k, _, _, he⟩ | ⟨_, _, he⟩ <;> rw [he] at h
  · rw [performOpcode_eq] at h
    exact hP.of_command (isCommand_decodeCommand b) h hs
  · cases h; exact hP.clearErr s hs
  · cases h; exact hP.storeByte s r.reg k b hs
  · cases h; exact hs

theorem of_exec {i : Instr} {s t : State} (h : exec i s = .next t) (hs : P s) : P t := by
  cases i
  case hostWr => exact hP.of_hostWr h hs
  case hostRd => cases h; exact hP.reads s _ hs
  all_goals exact hP.of_command rfl h hs

/-- The induction of every step invariant, done once. -/
theorem of_step {s t : State} (h : step s = .next t) (hs : P s) : P t := by
  rcases step_next_cases h with ⟨rfl, _, _⟩ | ⟨rest, _, rfl⟩ | ⟨w, rest, i, _, _, _, he⟩
  · exact hs
  · exact hP.powerOnReset _
  · exact hP.of_exec he (hP.pending s rest hs)

end KeptByOperations

/-! ## The invariants of R48 -/

/-- Settles O50: every register of the reset state is a literal (R190). -/
theorem resetIsInRange : Obligations.ResetIsInRange where
  freshIsCalibrated := by decide
  validIsNotBusy := by decide
  rhRaw := by decide
  tRaw := by decide
  up := by decide
  txn := by decide
  dcs := by decide
  ctrl := by decide

/-- The pressure code takes at most 19 bits: at least 5 are shifted out (R41, R127). -/
theorem upCode_lt (s : State) : s.upCode.toNat < 524288 := by
  have hshift : 2 ^ 5 ≤ 2 ^ (8 - s.oss) := Nat.pow_le_pow_right (by decide) (by have := oss_lt s; omega)
  rw [upCode_toNat, Nat.div_lt_iff_lt_mul (by omega)]
  have := s.upraw.isLt
  omega

namespace State.InRange

variable {s : State} (h : s.InRange)
include h

theorem setB5Fresh_false : (s.setB5Fresh false).InRange :=
  { h with freshIsCalibrated := fun hf => by simp at hf }

theorem storeByte (r : Reg) (k : Nat) (b : Byte) : (s.storeByte r k b).InRange := by
  cases r
  case ctrl => exact { h with ctrl := and_toNat_le_right b definedLow3 }
  case dcs => exact { h with dcs := and_toNat_le_right b definedLow3 }
  case ut => exact { h.setB5Fresh_false with }
  all_goals exact { h with }

theorem setMismatch (m : Bool) : (s.setMismatch m).InRange :=
  { h with validIsNotBusy := by simpa using h.validIsNotBusy }

theorem frameFlags : s.frameFlags.InRange :=
  { h with validIsNotBusy := fun hv => by simp at hv }

/-- VALID is set on a frame that is not busy only; the decoded values have 20 bits (R101). -/
theorem frameDecoded (hb : s.fBusy = false) : s.frameDecoded.InRange :=
  { h with
    validIsNotBusy := fun _ => by simpa using hb
    rhRaw := (BitVec.toNat_setWidth_of_le (by decide)).trans_lt s.frameRh.isLt
    tRaw := (BitVec.toNat_setWidth_of_le (by decide)).trans_lt s.frameT.isLt }

theorem nibSend (b rs : Byte) : (s.nibSend b rs).InRange := by
  rw [nibSend_eq]
  exact { h with txn := nibSend_txn_le b rs s }

end State.InRange

theorem inRange_keptByOperations : KeptByOperations State.InRange where
  pending _ _ h := { h with }
  reads _ _ h := { h with }
  powerOnReset _ := { resetIsInRange with }
  softReset _ := { resetIsInRange with }
  endCommand _ _ _ h := { h with }
  clearErr _ h := { h with }
  storeByte _ r k b h := h.storeByte r k b
  crcReported _ _ m h := { h.setMismatch m with }
  frameFlags _ h := h.frameFlags
  frameDecoded s hb h := h.frameFlags.frameDecoded (by simpa using hb)
  calRejected _ h := { h with freshIsCalibrated := fun hf => by simp at hf }
  calAccepted _ _ h := { h with freshIsCalibrated := fun _ => by simp }
  b5Consumed _ h := h.setB5Fresh_false
  tempWritten s _ hv h := { h with freshIsCalibrated := fun _ => by simpa using hv }
  presWritten s _ h := { h.setB5Fresh_false with up := upCode_lt s }
  txnCleared _ h := { h with txn := Nat.zero_le 4 }
  dcsWritten _ _ hd h := { h with dcs := hd h.dcs }
  nibSend _ b rs h := h.nibSend b rs

/-- Settles O49: each operation keeps the invariants, so a step does. -/
theorem everyStepKeepsTheRegistersInRange : Obligations.EveryStepKeepsTheRegistersInRange :=
  fun _ _ hs h => inRange_keptByOperations.of_step h hs

/-! ## Reserved bits and converted values -/

namespace State.ReservedClear

variable {s : State} (h : s.ReservedClear)
include h

theorem setB5Fresh (b : Bool) : (s.setB5Fresh b).ReservedClear :=
  { h with status := Nat.le_of_lt_succ (setBit_toNat_lt (n := 2) b (Nat.lt_succ_of_le h.status) (by decide)) }

theorem setCalValid (b : Bool) : (s.setCalValid b).ReservedClear :=
  { h with status := Nat.le_of_lt_succ (setBit_toNat_lt (n := 2) b (Nat.lt_succ_of_le h.status) (by decide)) }

theorem setMismatch (b : Bool) : (s.setMismatch b).ReservedClear :=
  { h with fstat := Nat.le_of_lt_succ (setBit_toNat_lt (n := 3) b (Nat.lt_succ_of_le h.fstat) (by decide)) }

theorem setValid (b : Bool) : (s.setValid b).ReservedClear :=
  { h with fstat := Nat.le_of_lt_succ (setBit_toNat_lt (n := 3) b (Nat.lt_succ_of_le h.fstat) (by decide)) }

theorem storeByte (r : Reg) (k : Nat) (b : Byte) : (s.storeByte r k b).ReservedClear := by
  cases r
  case ut => exact { h.setB5Fresh false with }
  all_goals exact { h with }

theorem frameFlags : s.frameFlags.ReservedClear :=
  { h with fstat := (frameFlags_fstat_le s).trans (by decide) }

/-- The conversions of 20-bit values stay in the ranges of R34. -/
theorem frameDecoded : s.frameDecoded.ReservedClear :=
  { h.setValid true with
    rhQ20 := by
      change (rhConvert s.frameRh).toNat ≤ _
      rw [rhConvert_toNat]; omega
    tcQ20Low := by
      change _ ≤ (tConvert s.frameT).toInt
      rw [tConvert_toInt]; omega
    tcQ20High := by
      change (tConvert s.frameT).toInt ≤ _
      rw [tConvert_toInt]; omega }

theorem nibSend (b rs : Byte) : (s.nibSend b rs).ReservedClear := by
  rw [nibSend_eq]
  exact { h with }

end State.ReservedClear

theorem reset_reservedClear : State.reset.ReservedClear where
  status := by decide
  fstat := by decide
  rhQ20 := by decide
  tcQ20Low := by decide
  tcQ20High := by decide

theorem reservedClear_keptByOperations : KeptByOperations State.ReservedClear where
  pending _ _ h := { h with }
  reads _ _ h := { h with }
  powerOnReset _ := { reset_reservedClear with }
  softReset _ := { reset_reservedClear with }
  endCommand _ _ _ h := { h with }
  clearErr _ h := { h with }
  storeByte _ r k b h := h.storeByte r k b
  crcReported _ _ m h := { h.setMismatch m with }
  frameFlags _ h := h.frameFlags
  frameDecoded _ _ h := h.frameFlags.frameDecoded
  calRejected _ h := (h.setB5Fresh false).setCalValid false
  calAccepted _ _ h := { (h.setB5Fresh false).setCalValid true with }
  b5Consumed _ h := h.setB5Fresh false
  tempWritten _ _ _ h := { (h.setB5Fresh false).setB5Fresh true with }
  presWritten _ _ h := { h.setB5Fresh false with }
  txnCleared _ h := { h with }
  dcsWritten _ _ _ h := { h with }
  nibSend _ b rs h := h.nibSend b rs

/-- Settles O51: each operation keeps them, so a step does. -/
theorem everyStepKeepsReservedBitsClear : Obligations.EveryStepKeepsReservedBitsClear :=
  fun _ _ hs h => reservedClear_keptByOperations.of_step h hs

/-! ## The life of B5_FRESH -/

@[simp] theorem nibSend_status (b rs : Byte) (s : State) : (s.nibSend b rs).status = s.status := by rw [nibSend_eq]

/-- A command other than those of R26's list keeps STATUS. -/
theorem command_keeps_status {i : Instr} {s t : State} (hi : i.isCommand = true)
    (hn : i ∉ [.srst, .calLoad, .cmpTemp, .cmpPres]) (h : exec i s = .next t) : t.status = s.status := by
  cases i
  case srst | calLoad | cmpTemp | cmpPres => simp at hn
  case hostWr | hostRd => cases hi
  case frmCheck =>
    simp only [exec, execFrmCheck] at h
    split_ifs at h <;> cases h <;> rfl
  case setCursor =>
    simp only [exec, execSetCursor] at h
    split_ifs at h <;> cases h
    · rfl
    · rfl
    · exact nibSend_status _ _ _
  case nop | frmCrc | illegal => cases h; rfl
  all_goals cases h; exact nibSend_status _ _ _

/-- CMP_TEMP that leaves B5 fresh succeeded (R125). -/
theorem cmpTemp_result_of_fresh {s t : State} (h : exec .cmpTemp s = .next t) (hf : t.b5Fresh = true) :
    t.result = 0x00#8 := by
  simp only [exec, execCmpTemp] at h
  split_ifs at h
  · cases h; simp at hf
  · split at h <;> cases h
    · simp at hf
    · rfl

/-- CMP_PRES consumes B5 (R129). -/
theorem cmpPres_not_fresh {s t : State} (h : exec .cmpPres s = .next t) : t.b5Fresh = false := by
  simp only [exec, execCmpPres] at h
  split_ifs at h
  · cases h; simp
  · cases h; simp
  · split at h <;> cases h <;> simp

/-- CAL_LOAD makes B5 stale whether it accepts the block or not (R121). -/
theorem calLoad_not_fresh {s t : State} (h : exec .calLoad s = .next t) : t.b5Fresh = false := by
  simp only [exec, execCalLoad] at h
  split_ifs at h <;> cases h
  · simp
  · exact (b5Fresh_setCalValid _ true).trans (b5Fresh_setB5Fresh s false)

/-- SRST clears STATUS (R91). -/
theorem srst_not_fresh {s t : State} (h : exec .srst s = .next t) : t.b5Fresh = false := by
  cases h
  change (0x00#8 : Byte).getLsbD 1 = false
  decide

/-- A store keeps B5_FRESH, but to UT, which clears it (R36, R55). -/
theorem storeByte_b5Fresh (s : State) (r : Reg) (k : Nat) (b : Byte) :
    (s.storeByte r k b).b5Fresh = if r = .ut then false else s.b5Fresh := by
  cases r
  case ut => exact b5Fresh_setB5Fresh _ false
  all_goals rfl

theorem performed_performed (i : Instr) : i.performed.performed = i.performed := by
  cases i
  case hostWr a c =>
    by_cases ha : a = 0x02#8
    · simp only [Instr.performed, if_pos ha]
      exact performed_of_isCommand (isCommand_decodeCommand c)
    · simp only [Instr.performed, if_neg ha]
  all_goals rfl

theorem touchesFresh_performed (i : Instr) : i.performed.touchesFresh = i.touchesFresh := by
  simp only [Instr.touchesFresh, performed_performed]

/-- Both bytes of UT are stored (R24). -/
theorem execHostWr_ut {a : Byte} (ha : a = 0x48#8 ∨ a = 0x49#8) (b : Byte) (s : State) :
    ∃ k, execHostWr a b s = .next (s.storeByte .ut k b) := by
  rcases ha with rfl | rfl <;> exact ⟨_, rfl⟩

/-- A HostWrite that performs no command leaves B5 fresh only if it was, and is then no write to UT. -/
theorem hostWr_fresh {a b : Byte} {s t : State} (ha : a ≠ 0x02#8) (h : execHostWr a b s = .next t)
    (hf : t.b5Fresh = true) : (Instr.hostWr a b).touchesFresh = false ∧ s.b5Fresh = true := by
  by_cases hut : a = 0x48#8 ∨ a = 0x49#8
  · obtain ⟨k, hk⟩ := execHostWr_ut hut b s
    rw [hk] at h
    cases h
    simp [storeByte_b5Fresh] at hf
  · refine ⟨by simpa [Instr.touchesFresh, Instr.performed, ha] using hut, ?_⟩
    rcases execHostWr_cases a b s with ⟨ha', _⟩ | ⟨_, he⟩ | ⟨r, k, _, _, he⟩ | ⟨_, _, he⟩
    · exact absurd ha' ha
    all_goals
      rw [he] at h
      cases h
    · exact hf
    · rw [storeByte_b5Fresh] at hf
      split_ifs at hf
      exact hf
    · exact hf

/-- The commands that touch B5_FRESH are the four of R26's list. -/
theorem touchesFresh_of_isCommand {i : Instr} (hi : i.isCommand = true)
    (hn : i ∉ [.srst, .calLoad, .cmpTemp, .cmpPres]) : i.touchesFresh = false := by
  cases i
  case srst | calLoad | cmpTemp | cmpPres => simp at hn
  case hostWr | hostRd => cases hi
  all_goals rfl

/-- A command leaves B5 fresh only as a CMP_TEMP that succeeded, or by leaving STATUS alone. -/
theorem command_fresh {i : Instr} {s t : State} (hi : i.isCommand = true) (h : exec i s = .next t)
    (hf : t.b5Fresh = true) :
    (i = .cmpTemp ∧ t.result = 0x00#8) ∨ (i.touchesFresh = false ∧ s.b5Fresh = true) := by
  by_cases hn : i ∈ [.srst, .calLoad, .cmpTemp, .cmpPres]
  · simp only [List.mem_cons, List.not_mem_nil, or_false] at hn
    rcases hn with rfl | rfl | rfl | rfl
    · simp [srst_not_fresh h] at hf
    · simp [calLoad_not_fresh h] at hf
    · exact .inl ⟨rfl, cmpTemp_result_of_fresh h hf⟩
    · simp [cmpPres_not_fresh h] at hf
  · refine .inr ⟨touchesFresh_of_isCommand hi hn, ?_⟩
    rwa [State.b5Fresh, ← command_keeps_status hi hn h]

/-- Settles O31: the command an instruction performs decides, and where it performs none the access does. -/
theorem onlyCmpTempMakesB5Fresh : Obligations.OnlyCmpTempMakesB5Fresh := by
  intro i s t h hf
  by_cases hc : i.performed.isCommand = true
  · rw [← touchesFresh_performed]
    exact command_fresh hc ((exec_performed i s).trans h) hf
  · right
    cases i
    case hostRd a => cases h; exact ⟨rfl, hf⟩
    case hostWr a b =>
      have ha : a ≠ 0x02#8 := by
        rintro rfl
        exact hc (isCommand_decodeCommand b)
      exact hostWr_fresh ha h hf
    all_goals exact absurd rfl hc

/-! ## The register map, address by address -/

/-- No address lies in two rows of the map. -/
theorem registerMap_disjoint : ∀ r ∈ registerMap, ∀ r' ∈ registerMap,
    r = r' ∨ r.base + r.bytes ≤ r'.base ∨ r'.base + r'.bytes ≤ r.base := by decide

/-- Byte `k` of a row of the map is found at its address. -/
theorem locate_of_mem {a : Byte} {r : RegRow} {k : Nat} (hr : r ∈ registerMap) (ha : a.toNat = r.base + k)
    (hk : k < r.bytes) : locate a = some (r, k) := by
  unfold locate
  split
  next r' hf =>
    have hr' := List.mem_of_find?_eq_some hf
    have hp := List.find?_some hf
    simp only [Bool.and_eq_true, decide_eq_true_eq] at hp
    rcases registerMap_disjoint r hr r' hr' with rfl | hd | hd
    · simp [ha]
    · omega
    · omega
  next hf =>
    have := List.find?_eq_none.mp hf r hr
    simp only [Bool.and_eq_true, decide_eq_true_eq] at this
    omega

/-- The address `k` bytes after `base`. -/
theorem toNat_addr_add {base k : Nat} (h : base + k < 256) :
    (BitVec.ofNat 8 base + BitVec.ofNat 8 k).toNat = base + k := by
  rw [← BitVec.ofNat_add, BitVec.toNat_ofNat, Nat.mod_eq_of_lt h]

/-- The bytes of a row of the map are found from its base upwards. -/
theorem locate_base_add {r : RegRow} {k : Nat} (hr : r ∈ registerMap) (hk : k < r.bytes) :
    locate (BitVec.ofNat 8 r.base + BitVec.ofNat 8 k) = some (r, k) := by
  have hfits : ∀ r ∈ registerMap, r.base + r.bytes ≤ 256 := by decide
  have := hfits r hr
  exact locate_of_mem hr (toNat_addr_add (by omega)) hk

/-- A one-byte register reads at its base address. -/
theorem hostRead_oneByte {s : State} {a v : Byte} (reg : Reg) (acc : Access)
    (hr : ⟨reg, a.toNat, 1, acc⟩ ∈ registerMap) (hv : s.regBytes reg = [v]) : s.hostRead a = v := by
  rw [hostRead_of_locate (locate_of_mem hr (Nat.add_zero _).symm Nat.one_pos), hv]
  rfl

/-- Byte `k` of a register that is an array of bytes is its element `k`. -/
theorem hostRead_byteArray {s : State} {base n : Nat} {v : Vector Byte n} (reg : Reg) (acc : Access)
    (hr : ⟨reg, base, n, acc⟩ ∈ registerMap) (hv : s.regBytes reg = v.toList) (k : Fin n) :
    s.hostRead (BitVec.ofNat 8 base + BitVec.ofNat 8 k.val) = v[k.val] := by
  rw [hostRead_of_locate (locate_base_add hr k.isLt), hv]
  simp

theorem hostRead_ctrl (s : State) : s.hostRead 0x00#8 = s.ctrl := hostRead_oneByte .ctrl .rw (by decide) rfl

theorem hostRead_status (s : State) : s.hostRead 0x01#8 = s.status := hostRead_oneByte .status .ro (by decide) rfl

theorem hostRead_fstat (s : State) : s.hostRead 0x17#8 = s.fstat := hostRead_oneByte .fstat .ro (by decide) rfl

theorem hostRead_dcs (s : State) : s.hostRead 0x80#8 = s.dcs := hostRead_oneByte .dcs .rw (by decide) rfl

/-- Settles O44: each address lies in its row of the map. -/
theorem oneByteRegistersReadAtTheirAddresses : Obligations.OneByteRegistersReadAtTheirAddresses := by
  intro s
  exact ⟨hostRead_ctrl s, hostRead_status s,
    hostRead_oneByte .cmd .wo (by decide) rfl,
    hostRead_oneByte .result .ro (by decide) rfl,
    hostRead_oneByte .err .rc (by decide) rfl,
    hostRead_byteArray (base := 0x10) .frame .rw (by decide) rfl,
    hostRead_fstat s,
    hostRead_oneByte .crcCalc .ro (by decide) rfl,
    hostRead_byteArray (base := 0x30) .calb .rw (by decide) rfl,
    hostRead_dcs s,
    hostRead_oneByte .txdata .rw (by decide) rfl,
    hostRead_oneByte .curRow .rw (by decide) rfl,
    hostRead_oneByte .curCol .rw (by decide) rfl,
    hostRead_byteArray (base := 0x84) .txb .ro (by decide) rfl,
    hostRead_oneByte .txn .ro (by decide) rfl⟩

/-- An address outside every row of the map is reserved (R24, R47). -/
theorem locate_eq_none {a : Byte} (h : ∀ r ∈ registerMap, a.toNat < r.base ∨ r.base + r.bytes ≤ a.toNat) :
    locate a = none := by
  have hf : registerMap.find? (fun r => decide (r.base ≤ a.toNat) && decide (a.toNat < r.base + r.bytes)) = none := by
    rw [List.find?_eq_none]
    intro r hr
    have := h r hr
    simp only [Bool.and_eq_true, decide_eq_true_eq]
    omega
  simp only [locate, hf]

/-- A register that is not read-only has its addresses outside the read-only ranges. -/
theorem access_eq_ro_of_locate {a : Byte} {r : RegRow} {k : Nat} (hl : locate a = some (r, k))
    (h : ∀ r ∈ registerMap, r.access ≠ .ro → a.toNat < r.base ∨ r.base + r.bytes ≤ a.toNat) : r.access = .ro := by
  obtain ⟨hr, ha, hk⟩ := locate_spec hl
  by_contra hacc
  have := h r hr hacc
  omega

/-- A HostWrite to no register, or to a read-only one, is ignored (R47). -/
theorem execHostWr_ignored {a : Byte} (h : ∀ r k, locate a = some (r, k) → r.access = .ro) (b : Byte) (s : State) :
    execHostWr a b s = .next s := by
  unfold execHostWr
  match hl : locate a with
  | none => rfl
  | some (r, k) => simp only [h r k hl]

/-- A HostWrite to a read-and-write register stores the byte (R51). -/
theorem execHostWr_store {a : Byte} {r : RegRow} {k : Nat} (hl : locate a = some (r, k)) (hr : r.access = .rw)
    (b : Byte) (s : State) : execHostWr a b s = .next (s.storeByte r.reg k b) := by
  simp only [execHostWr, hl, hr]

/-- Settles O45: reserved addresses lie in no row, read-only ones in no writable row, and the masks of CTRL and DCS
keep their low three bits. -/
theorem reservedSpaceReadsZeroAndIgnoresWrites : Obligations.ReservedSpaceReadsZeroAndIgnoresWrites := by
  intro a b s
  have hctrl : locate 0x00#8 = some (⟨.ctrl, 0x00, 1, .rw⟩, 0) := locate_of_mem (by decide) rfl Nat.one_pos
  have hdcs : locate 0x80#8 = some (⟨.dcs, 0x80, 1, .rw⟩, 0) := locate_of_mem (by decide) rfl Nat.one_pos
  refine ⟨fun ha => ?_, fun ha => ?_, execHostWr_store hctrl rfl b s, execHostWr_store hdcs rfl b s, fun hi hr => ?_⟩
  · have hl : locate a = none := locate_eq_none (by
      simp only [registerMap, List.cons_append, List.nil_append, List.forall_mem_cons, List.not_mem_nil,
        false_imp_iff, implies_true, and_true]
      omega)
    exact ⟨hostRead_of_reserved hl, execHostWr_ignored (by simp [hl]) b s⟩
  · refine execHostWr_ignored (fun r k hl => access_eq_ro_of_locate hl ?_) b s
    simp only [registerMap, List.cons_append, List.nil_append, List.forall_mem_cons, List.not_mem_nil, ne_eq,
      reduceCtorEq, not_true_eq_false, not_false_eq_true, false_imp_iff, true_imp_iff, implies_true, true_and, and_true]
    omega
  · rw [hostRead_ctrl, hostRead_status, hostRead_fstat, hostRead_dcs]
    exact ⟨and_highBits_eq_zero (n := 3) (Nat.lt_succ_of_le hi.ctrl),
      and_highBits_eq_zero (n := 2) (Nat.lt_succ_of_le hr.status),
      and_highBits_eq_zero (n := 3) (Nat.lt_succ_of_le hr.fstat),
      and_highBits_eq_zero (n := 3) (Nat.lt_succ_of_le hi.dcs)⟩

end Sys2Proof.Machine

/-! SUPPORT and PROOFS for spec/20_memory.md: the step that carries an instruction, the big-endian reads of R52, the
store of one byte, and what an instruction does to the output port (R50). -/

namespace Sys2Proof.Machine

/-! ## The host word of an instruction -/

/-- A well-formed command is what its byte decodes to (R70, R72). -/
theorem decodeCommand_of_encode {i : Instr} {c : Byte} (hwf : i.wf = true) (h : encode i = .cmd8 c) :
    decodeCommand c = i := by
  cases i
  case hostWr | hostRd => cases h
  case illegal =>
    cases h
    exact decodeCommand_illegal _ (by simpa only [Instr.wf, Bool.not_eq_true'] using hwf)
  all_goals cases h; rfl

/-- The host word of an instruction decodes to the access that performs it. -/
theorem decodeHostWord_hostWordOf {i : Instr} (hwf : i.wf = true) :
    ∃ j, decodeHostWord (hostWordOf (encode i)) = .ok j ∧ j.performed = i.performed := by
  match h : encode i with
  | .cmd8 c =>
    refine ⟨.hostWr cmdAddr c, decodeHostWord_writeWord _ _, ?_⟩
    rw [← decodeCommand_of_encode hwf h]
    exact (performed_of_isCommand (isCommand_decodeCommand c)).symm
  | .hostAcc w =>
    cases i
    case hostWr a d => cases h; exact ⟨_, decodeHostWord_writeWord a d, rfl⟩
    case hostRd a => cases h; exact ⟨_, decodeHostWord_readWord a, rfl⟩
    all_goals cases h

/-- A block that does not wait on the bus performs the access that comes next (R59, R60). -/
theorem step_access {s : State} {w : HostWord} {rest : List HostEvent} {j : Instr} (hb : s.busWait = none)
    (hp : s.pending = .access w :: rest) (hd : decodeHostWord w = .ok j) :
    step s = exec j { s with pending := rest } := by
  simp only [step, State.fetch, hp, stepAccess, hb, hd]

/-- Settles O6: the word decodes to an access that performs what the instruction performs. -/
theorem stepRunsTheDecodedInstruction : Obligations.StepRunsTheDecodedInstruction := by
  intro i rest s hwf hb hp
  obtain ⟨j, hd, hj⟩ := decodeHostWord_hostWordOf hwf
  rw [step_access hb hp hd, ← exec_performed j, hj, exec_performed]

/-- Settles O42: the record of reads is no register. -/
theorem hostReadChangesNoRegister : Obligations.HostReadChangesNoRegister :=
  fun _ _ => ⟨_, rfl, rfl, fun r _ => by cases r <;> rfl, ⟨rfl, rfl, rfl, rfl⟩, rfl⟩

/-! ## Reads of several bytes -/

/-- A register has as many bytes as its row of the map has addresses (R24). -/
theorem regBytes_length (s : State) : ∀ r ∈ registerMap, (s.regBytes r.reg).length = r.bytes := by
  simp [registerMap, State.regBytes, bytesOf]

/-- Consecutive addresses inside a row of the map read consecutive bytes of its register (R52). -/
theorem memRead_row (s : State) {r : RegRow} (hr : r ∈ registerMap) {j n : Nat} (hn : j + n ≤ r.bytes) :
    s.memRead (BitVec.ofNat 8 r.base + BitVec.ofNat 8 j) n = ofBytes (((s.regBytes r.reg).drop j).take n) := by
  have hlen := regBytes_length s r hr
  refine congrArg ofBytes (List.ext_getElem (by simp; omega) fun i hi _ => ?_)
  have hi : i < n := by simpa using hi
  simp only [List.getElem_map, List.getElem_range, List.getElem_take, List.getElem_drop]
  rw [BitVec.add_assoc, ← BitVec.ofNat_add, hostRead_of_locate (locate_base_add hr (by omega)),
    List.getD_eq_getElem _ _ (by omega)]

/-- A whole register read from its base address. -/
theorem memRead_register (s : State) {base n : Nat} (reg : Reg) (acc : Access)
    (hr : ⟨reg, base, n, acc⟩ ∈ registerMap) : s.memRead (BitVec.ofNat 8 base) n = ofBytes (s.regBytes reg) := by
  have h := memRead_row s hr (j := 0) (n := n) (by simp)
  rw [BitVec.add_zero] at h
  rw [h, List.drop_zero, List.take_of_length_le (regBytes_length s _ hr).le]

/-- Two bytes for each word: those of word `k` begin at `2 * k`. -/
theorem take_drop_flatMap_bytesOf_two (l : List (BitVec 16)) (k : Nat) (hk : k < l.length) :
    ((l.flatMap (bytesOf 2)).drop (2 * k)).take 2 = bytesOf 2 l[k] := by
  induction l generalizing k with
  | nil => cases hk
  | cons v l ih =>
    cases k with
    | zero => rfl
    | succ k => exact ih k (by simpa using hk)

/-- Settles O43: the addresses of a row read its bytes in order, and those are the register's value. -/
theorem multiByteRegistersAreBigEndian : Obligations.MultiByteRegistersAreBigEndian := by
  intro s
  obtain ⟨value16, value24, value32⟩ := ofBytes_bytesOf
  have hcoef (k : Fin 11) : s.memRead (0x50#8 + BitVec.ofNat 8 (2 * k.val)) 2 = s.coef[k.val].toNat := by
    have hword := take_drop_flatMap_bytesOf_two s.coef.toList k.val (by simp)
    have hread := memRead_row s (r := ⟨.coef, 0x50, 22, .ro⟩) (by decide) (j := 2 * k.val) (n := 2)
      (by have := k.isLt; simp only; omega)
    rw [hread, State.regBytes, hword, value16, Vector.getElem_toList]
  exact ⟨(memRead_register s .rhRaw .ro (by decide)).trans (value24 _),
    (memRead_register s .tRaw .ro (by decide)).trans (value24 _),
    (memRead_register s .rhQ20 .ro (by decide)).trans (value32 _),
    (memRead_register s .tcQ20 .ro (by decide)).trans (value32 _),
    (memRead_register s .ut .rw (by decide)).trans (value16 _),
    (memRead_register s .upraw .rw (by decide)).trans (value24 _),
    hcoef,
    (memRead_register s .b5 .ro (by decide)).trans (value32 _),
    (memRead_register s .t10 .ro (by decide)).trans (value32 _),
    (memRead_register s .p .ro (by decide)).trans (value32 _),
    (memRead_register s .up .ro (by decide)).trans (value24 _)⟩

/-! ## The store of one byte -/

/-- STATUS has the one address 0x01 (R24). -/
theorem eq_of_locate_status {x : Byte} {r : RegRow} {k : Nat} (h : locate x = some (r, k)) (hr : r.reg = .status) :
    x = 0x01#8 := by
  obtain ⟨hmem, hx, hk⟩ := locate_spec h
  obtain rfl := registerMap_reg_inj r hmem ⟨.status, 0x01, 1, .ro⟩ (by decide) hr
  obtain rfl : k = 0 := Nat.lt_one_iff.mp hk
  exact BitVec.eq_of_toNat_eq hx

section Store

variable {a x : Byte} {r : RegRow} {k : Nat} (s : State) (b : Byte) (hl : locate a = some (r, k))
  (hk : k < plainWidth r.reg)
include hl hk

/-- The stored byte reads back. -/
theorem hostRead_storeByte_same : (s.storeByte r.reg k b).hostRead a = b := by
  obtain ⟨hr, -, hkr⟩ := locate_spec hl
  rw [hostRead_of_locate hl, regBytes_storeByte_same s r.reg k b hk,
    List.getD_eq_getElem _ _ (by rwa [List.length_set, regBytes_length s r hr]), List.getElem_set_self]

/-- Every other address reads as before, but STATUS after a store to UT (R36). -/
theorem hostRead_storeByte_other (hx : x ≠ a) (hs : r.reg = .ut → x ≠ 0x01#8) :
    (s.storeByte r.reg k b).hostRead x = s.hostRead x := by
  match hlx : locate x with
  | none => rw [hostRead_of_reserved hlx, hostRead_of_reserved hlx]
  | some (r', k') =>
    rw [hostRead_of_locate hlx, hostRead_of_locate hlx]
    by_cases hreg : r'.reg = r.reg
    · have hne : k ≠ k' := by
        rintro rfl
        exact hx (locate_inj hlx hl hreg)
      rw [hreg, regBytes_storeByte_same s r.reg k b hk, List.getD, List.getElem?_set_ne hne, List.getD]
    · rw [regBytes_storeByte_other s r.reg k b r'.reg hreg fun hut hstatus =>
        hs hut (eq_of_locate_status hlx hstatus)]

end Store

/-- An address inside a row of the map. -/
theorem locate_of_range {a : Byte} {r : RegRow} (hr : r ∈ registerMap)
    (ha : r.base ≤ a.toNat ∧ a.toNat < r.base + r.bytes) : locate a = some (r, a.toNat - r.base) :=
  locate_of_mem hr (by omega) (by omega)

/-- A HostWrite to a register that takes bytes as they come, other than UT, changes what its own address reads and
nothing else. -/
theorem hostWr_plain {a b : Byte} {s : State} (r : RegRow) (hr : r ∈ registerMap)
    (hrow : r.access = .rw ∧ plainWidth r.reg = r.bytes ∧ r.reg ≠ .ut)
    (ha : r.base ≤ a.toNat ∧ a.toNat < r.base + r.bytes) :
    ∃ t, exec (.hostWr a b) s = .next t ∧ t.hostRead a = b ∧ (∀ x, x ≠ a → t.hostRead x = s.hostRead x) ∧
      PortQuiet s t ∧ HostSideKept s t := by
  obtain ⟨hacc, hwidth, hut⟩ := hrow
  have hl := locate_of_range hr ha
  have hk : a.toNat - r.base < plainWidth r.reg := by omega
  exact ⟨_, execHostWr_store hl hacc b s, hostRead_storeByte_same s b hl hk,
    fun _ hx => hostRead_storeByte_other s b hl hk hx fun h => absurd h hut, storeByte_quiet s r.reg _ b⟩

/-- Clearing B5_FRESH clears bit 1 of STATUS and keeps the others. -/
theorem setBit_one_false (v : Byte) : setBit v 1 false = v &&& 0xFD#8 := rfl

/-- A HostWrite to UT clears B5_FRESH besides (R36, R55). -/
theorem hostWr_ut {a b : Byte} {s : State} (ha : 0x48 ≤ a.toNat ∧ a.toNat ≤ 0x49) :
    ∃ t, exec (.hostWr a b) s = .next t ∧ t.hostRead a = b ∧ t.hostRead 0x01#8 = s.hostRead 0x01#8 &&& 0xFD#8 ∧
      (∀ x, x ≠ a → x ≠ 0x01#8 → t.hostRead x = s.hostRead x) ∧ PortQuiet s t ∧ HostSideKept s t := by
  have hl : locate a = some (⟨.ut, 0x48, 2, .rw⟩, a.toNat - 0x48) :=
    locate_of_range (by decide) ⟨ha.1, Nat.lt_succ_of_le ha.2⟩
  have hk : a.toNat - 0x48 < plainWidth .ut := by simp only [plainWidth]; omega
  refine ⟨_, execHostWr_store hl rfl b s, hostRead_storeByte_same s b hl hk, ?_,
    fun _ hx hx1 => hostRead_storeByte_other s b hl hk hx fun _ => hx1, storeByte_quiet s .ut _ b⟩
  rw [hostRead_status, hostRead_status]
  exact setBit_one_false s.status

/-- Settles O46: each range of addresses is a row of the map, and the row is stored to. -/
theorem hostWriteStoresOneByte : Obligations.HostWriteStoresOneByte := by
  refine fun a b s => ⟨fun ha => ?_, hostWr_ut⟩
  have hrange : (0x10 ≤ a.toNat ∧ a.toNat < 0x17) ∨ (0x30 ≤ a.toNat ∧ a.toNat < 0x46) ∨
      (0x4A ≤ a.toNat ∧ a.toNat < 0x4D) ∨ (0x81 ≤ a.toNat ∧ a.toNat < 0x82) ∨
      (0x82 ≤ a.toNat ∧ a.toNat < 0x83) ∨ (0x83 ≤ a.toNat ∧ a.toNat < 0x84) := by omega
  rcases hrange with hframe | hcalb | hupraw | htxdata | hcurRow | hcurCol
  · exact hostWr_plain ⟨.frame, 0x10, 7, .rw⟩ (by decide) (by decide) hframe
  · exact hostWr_plain ⟨.calb, 0x30, 22, .rw⟩ (by decide) (by decide) hcalb
  · exact hostWr_plain ⟨.upraw, 0x4A, 3, .rw⟩ (by decide) (by decide) hupraw
  · exact hostWr_plain ⟨.txdata, 0x81, 1, .rw⟩ (by decide) (by decide) htxdata
  · exact hostWr_plain ⟨.curRow, 0x82, 1, .rw⟩ (by decide) (by decide) hcurRow
  · exact hostWr_plain ⟨.curCol, 0x83, 1, .rw⟩ (by decide) (by decide) hcurCol

/-! ## The output port -/

/-- The output history grows by at most four events, all to the display (R50, R150). -/
def AppendsToDisplay (s t : State) : Prop :=
  ∃ es : List BusEvent, t.port = s.port ++ es ∧ es.length ≤ 4 ∧ ∀ e ∈ es, e.device = Config.lcdAddr

theorem appendsToDisplay_of_port_eq {s t : State} (h : t.port = s.port) : AppendsToDisplay s t :=
  ⟨[], by simp [h], by simp, by simp⟩

/-- `nib_send` issues one write for each of its four bus bytes at most. -/
theorem appendsToDisplay_nibSend (b rs : Byte) {s u : State} (h : u.port = s.port) :
    AppendsToDisplay s (u.nibSend b rs) := by
  obtain ⟨es, hport, hlen, hdev⟩ :=
    sendFrom_port (nibBytes b rs).toList 0 { u with txb := nibBytes b rs, txn := 0x00#8 }
  exact ⟨es, h ▸ hport, by simpa using hlen, hdev⟩

/-- A NIB command sends one byte, or SET_CURSOR rejects its arguments; what it writes before is not the port
(R151–R159). -/
theorem nibCommand_appendsToDisplay {i : Instr} {s t : State} (hi : i ∈ nibCommands) (h : exec i s = .next t) :
    AppendsToDisplay s t := by
  cases i
  case nop | srst | frmCrc | frmCheck | calLoad | cmpTemp | cmpPres | illegal | hostWr | hostRd =>
    simp [nibCommands] at hi
  case lcdCmd | lcdData => cases h; exact appendsToDisplay_nibSend _ _ rfl
  case setCursor =>
    simp only [exec, execSetCursor] at h
    split_ifs at h <;> cases h
    · exact appendsToDisplay_of_port_eq rfl
    · exact appendsToDisplay_of_port_eq rfl
    · exact appendsToDisplay_nibSend _ _ rfl
  all_goals cases h; exact appendsToDisplay_nibSend _ _ (u := { s with dcs := _ }) rfl

/-- A command of another family issues no bus write. -/
theorem command_quiet {i : Instr} {s t : State} (hi : i.isCommand = true) (hn : i ∉ nibCommands)
    (h : exec i s = .next t) : PortQuiet s t := by
  cases i
  case hostWr | hostRd => cases hi
  case nop | srst | frmCrc | illegal => cases h; exact ⟨rfl, rfl, rfl, rfl⟩
  case frmCheck =>
    simp only [exec, execFrmCheck] at h
    split_ifs at h <;> cases h <;> exact ⟨rfl, rfl, rfl, rfl⟩
  case calLoad =>
    simp only [exec, execCalLoad] at h
    split_ifs at h <;> cases h <;> exact ⟨rfl, rfl, rfl, rfl⟩
  case cmpTemp =>
    simp only [exec, execCmpTemp] at h
    split_ifs at h
    · cases h; exact ⟨rfl, rfl, rfl, rfl⟩
    · split at h <;> cases h <;> exact ⟨rfl, rfl, rfl, rfl⟩
  case cmpPres =>
    simp only [exec, execCmpPres] at h
    split_ifs at h
    · cases h; exact ⟨rfl, rfl, rfl, rfl⟩
    · cases h; exact ⟨rfl, rfl, rfl, rfl⟩
    · split at h <;> cases h <;> exact ⟨rfl, rfl, rfl, rfl⟩
  all_goals simp [nibCommands] at hn

/-- A HostWrite outside CMD issues no bus write. -/
theorem hostWr_quiet {a b : Byte} {s t : State} (ha : a ≠ 0x02#8) (h : execHostWr a b s = .next t) :
    PortQuiet s t := by
  rcases execHostWr_cases a b s with ⟨ha', -⟩ | ⟨-, he⟩ | ⟨r, k, -, -, he⟩ | ⟨-, -, he⟩
  · exact absurd ha' ha
  all_goals
    rw [he] at h
    cases h
  · exact ⟨rfl, rfl, rfl, rfl⟩
  · exact (storeByte_quiet s r.reg k b).1
  · exact ⟨rfl, rfl, rfl, rfl⟩

/-- What performs no NIB command issues no bus write (R50, R161). -/
theorem exec_quiet {i : Instr} {s t : State} (hn : i.performed ∉ nibCommands) (h : exec i s = .next t) :
    PortQuiet s t := by
  by_cases hc : i.performed.isCommand = true
  · exact command_quiet hc hn ((exec_performed i s).trans h)
  · cases i
    case hostRd => cases h; exact ⟨rfl, rfl, rfl, rfl⟩
    case hostWr a b =>
      have ha : a ≠ 0x02#8 := by
        rintro rfl
        exact hc (isCommand_decodeCommand b)
      exact hostWr_quiet ha h
    all_goals exact absurd rfl hc

/-- Settles O41: the instruction performs a NIB command or leaves the port alone. -/
theorem onlyNibCommandsWriteThePort : Obligations.OnlyNibCommandsWriteThePort := by
  refine fun i s t h => ⟨?_, fun hn => exec_quiet hn h⟩
  by_cases hn : i.performed ∈ nibCommands
  · exact nibCommand_appendsToDisplay hn ((exec_performed i s).trans h)
  · exact appendsToDisplay_of_port_eq (exec_quiet hn h).1

end Sys2Proof.Machine

/-! SUPPORT and PROOFS for spec/30_encoding.md: decoding and encoding are inverse in both formats, the opcode map and
what it leaves to ILLEGAL (R72, R80), the toggle opcodes (R73), and the registers each line of the map may write. -/

namespace Sys2Proof

/-! ## Decoding and encoding -/

/-- Settles O1: a command byte is looked up in the map it stands in, a host transaction word is read field by field. -/
theorem decodeOfEncodeGivesTheInstruction : Obligations.DecodeOfEncodeGivesTheInstruction := by
  intro i hwf
  cases i
  case hostWr a d => exact decodeHostWord_writeWord a d
  case hostRd a => exact decodeHostWord_readWord a
  all_goals exact congrArg Except.ok (Machine.decodeCommand_of_encode hwf rfl)

/-- A word with DIR = 1 is a HostWrite of its two fields (R71). -/
theorem writeWord_fields {w : HostWord} (h : w.getLsbD 16 = true) :
    writeWord (w.extractLsb' 8 8) (w.extractLsb' 0 8) = w :=
  hostWord_eta w true h

/-- A word with DIR = 0 and DATA = 0x00 is a HostRead of its address (R71). -/
theorem readWord_fields {w : HostWord} (h : w.getLsbD 16 = false) (hd : w.extractLsb' 0 8 = 0#8) :
    readWord (w.extractLsb' 8 8) = w := by
  have hw := hostWord_eta w false h
  rwa [hd] at hw

/-- The words that decode are those of HostWrite and HostRead (R71). -/
theorem decodeHostWord_eq_ok {w : HostWord} {i : Instr} (h : decodeHostWord w = .ok i) :
    (∃ a d, i = .hostWr a d ∧ writeWord a d = w) ∨ ∃ a, i = .hostRd a ∧ readWord a = w := by
  simp only [decodeHostWord] at h
  split_ifs at h with hdir hdata
  · cases h
    exact .inl ⟨_, _, rfl, writeWord_fields hdir⟩
  · cases h
    exact .inr ⟨_, rfl, readWord_fields (by simpa using hdir) hdata⟩

/-- Settles O2: a command byte by the opcode map, a host transaction word by its fields. -/
theorem encodeOfDecodeGivesTheCode : Obligations.EncodeOfDecodeGivesTheCode := by
  intro c i h
  cases c with
  | cmd8 c =>
    cases h
    exact encode_decodeCommand c
  | hostAcc w =>
    rcases decodeHostWord_eq_ok h with ⟨a, d, rfl, rfl⟩ | ⟨a, rfl, rfl⟩ <;> exact ⟨rfl, rfl⟩

/-- Settles O3: the defined words are encodings; the read word with a data byte is refused by the model's reading of
R71 (log entry 7). -/
theorem wordsOfTheSpecDecode : Obligations.WordsOfTheSpecDecode :=
  have decodes := decodeOfEncodeGivesTheInstruction
  ⟨decodes .srst rfl, decodes .frmCheck rfl, decodes .cmpPres rfl, decodes .blinkOff rfl,
    decodes (.illegal 0x39#8) rfl, decodes (.hostWr 0x02#8 0x3E#8) rfl, decodes (.hostRd 0x03#8) rfl, rfl⟩

/-! ## The opcode map -/

/-- ILLEGAL is what the map leaves over (R80). -/
theorem decodeCommand_eq_illegal_iff (c : Byte) :
    decodeCommand c = .illegal c ↔ definedOpcodes.contains c = false := by
  refine ⟨fun h => ?_, decodeCommand_illegal c⟩
  have hwf := (encode_decodeCommand c).2
  rwa [h, Instr.wf, Bool.not_eq_true'] at hwf

/-- Settles O4: the bytes that are no defined opcode are counted. -/
theorem twoHundredFortyOpcodesAreIllegal : Obligations.TwoHundredFortyOpcodesAreIllegal := by
  unfold Obligations.TwoHundredFortyOpcodesAreIllegal
  simp only [decodeCommand_eq_illegal_iff]
  decide +kernel

/-- Settles O5: one row of the table for each of the six opcodes. -/
theorem toggleOpcodesSelectMaskAndDirection : Obligations.ToggleOpcodesSelectMaskAndDirection := by
  intro c hlo hhi
  have hc : c = 0x32#8 ∨ c = 0x33#8 ∨ c = 0x34#8 ∨ c = 0x35#8 ∨ c = 0x36#8 ∨ c = 0x37#8 := by bv_omega
  rcases hc with rfl | rfl | rfl | rfl | rfl | rfl <;> decide

end Sys2Proof

namespace Sys2Proof.Machine

/-! ## The registers an operation writes -/

/-- From `s` to `t` no register outside `rs` is written and no host access is taken: the frame R72 gives a command. -/
def WritesOnly (rs : List Reg) (s t : State) : Prop := KeepsRegs rs s t ∧ HostSideKept s t

/-- Frames compose; that both lie in the line `rc` of the opcode map is a check of two literal lists. -/
theorem WritesOnly.trans {ra rb rc : List Reg} {s t u : State} (h1 : WritesOnly ra s t) (h2 : WritesOnly rb t u)
    (ha : ra ⊆ rc := by decide) (hb : rb ⊆ rc := by decide) : WritesOnly rc s u := by
  obtain ⟨regs1, pending1, reads1⟩ := h1
  obtain ⟨regs2, pending2, reads2⟩ := h2
  exact ⟨keepsRegs_trans regs1 regs2 fun _ hr => ⟨fun h => hr (ha h), fun h => hr (hb h)⟩,
    pending2.trans pending1, reads2.trans reads1⟩

/-- A command that wrote `ra` and then ends: RESULT and ERR are written besides (R93, R173). -/
theorem WritesOnly.endCommand {ra rc : List Reg} {s t : State} (h : WritesOnly ra s t) (c : ResultCode)
    (ha : ra ⊆ rc := by decide) (hc : [.result, .err] ⊆ rc := by decide) : WritesOnly rc s (t.endCommand c) :=
  h.trans ⟨keepsRegs_endCommand t c, (endCommand_quiet t c).2⟩ ha hc

/-- A command that wrote `ra` and then sends a byte (R150). -/
theorem WritesOnly.nibSend {ra rc : List Reg} {s t : State} (h : WritesOnly ra s t) (b rs : Byte)
    (ha : ra ⊆ rc := by decide) (hc : [.txb, .txn, .result, .err] ⊆ rc := by decide) :
    WritesOnly rc s (t.nibSend b rs) :=
  h.trans (nibSend_keeps b rs t) ha hc

theorem writesOnly_endOk (s : State) : WritesOnly [.result] s (s.endCommand .ok) :=
  ⟨keepsRegs_endOk s, (endCommand_quiet s .ok).2⟩

theorem writesOnly_setB5Fresh (s : State) (b : Bool) : WritesOnly [.status] s (s.setB5Fresh b) :=
  ⟨fun r => by cases r <;> simp [State.regBytes], rfl, rfl⟩

theorem writesOnly_setCalValid (s : State) (b : Bool) : WritesOnly [.status] s (s.setCalValid b) :=
  ⟨fun r => by cases r <;> simp [State.regBytes], rfl, rfl⟩

theorem writesOnly_coef (s : State) (coef : Vector (BitVec 16) 11) : WritesOnly [.coef] s { s with coef := coef } :=
  ⟨fun r => by cases r <;> simp [State.regBytes], rfl, rfl⟩

theorem writesOnly_tempWritten (s : State) (b5v : Int) : WritesOnly [.b5, .t10, .status] s (s.tempWritten b5v) :=
  ⟨fun r => by cases r <;> simp [State.regBytes, State.tempWritten], rfl, rfl⟩

theorem writesOnly_presWritten (s : State) (pv : Int) : WritesOnly [.up, .p] s (s.presWritten pv) :=
  ⟨fun r => by cases r <;> simp [State.regBytes, State.presWritten], rfl, rfl⟩

theorem writesOnly_crcReported (s : State) (c : Byte) (m : Bool) :
    WritesOnly [.crcCalc, .fstat] s (State.setMismatch { s with crcCalc := c } m) :=
  ⟨fun r => by cases r <;> simp [State.regBytes], rfl, rfl⟩

theorem writesOnly_frameFlags (s : State) : WritesOnly [.crcCalc, .fstat] s s.frameFlags :=
  ⟨fun r => by cases r <;> simp [State.regBytes, State.frameFlags], rfl, rfl⟩

theorem writesOnly_frameDecoded (s : State) :
    WritesOnly [.fstat, .rhRaw, .tRaw, .rhQ20, .tcQ20] s s.frameDecoded :=
  ⟨fun r => by cases r <;> simp [State.regBytes, State.frameDecoded], rfl, rfl⟩

theorem writesOnly_txn (s : State) (n : Byte) : WritesOnly [.txn] s { s with txn := n } :=
  ⟨fun r => by cases r <;> simp [State.regBytes], rfl, rfl⟩

theorem writesOnly_dcs (s : State) (d : Byte) : WritesOnly [.dcs] s { s with dcs := d } :=
  ⟨fun r => by cases r <;> simp [State.regBytes], rfl, rfl⟩

/-! ## The registers a command writes, where it has several outcomes -/

theorem writesOnly_frmCheck {s t : State} (h : execFrmCheck s = .next t) :
    WritesOnly Instr.frmCheck.writtenRegs s t := by
  have flags := writesOnly_frameFlags s
  match hb : s.frameBusy, hm : s.crcEn && s.crcMismatch with
  | true, _ =>
    cases h.symm.trans (execFrmCheck_busy hb)
    exact flags.endCommand _
  | false, true =>
    obtain ⟨hen, hmis⟩ := Bool.and_eq_true_iff.mp hm
    cases h.symm.trans (execFrmCheck_crc hb hen hmis)
    exact flags.endCommand _
  | false, false =>
    cases h.symm.trans (execFrmCheck_ok hb hm)
    have decoded : WritesOnly [.crcCalc, .fstat, .rhRaw, .tRaw, .rhQ20, .tcQ20] s s.frameFlags.frameDecoded :=
      flags.trans (writesOnly_frameDecoded _)
    exact decoded.endCommand _

theorem writesOnly_calLoad {s t : State} (h : execCalLoad s = .next t) : WritesOnly Instr.calLoad.writtenRegs s t := by
  have stale := writesOnly_setB5Fresh s false
  match hr : hasSentinel s.calParse with
  | true =>
    cases h.symm.trans (execCalLoad_reject hr)
    have rejected : WritesOnly [.status] s ((s.setB5Fresh false).setCalValid false) :=
      stale.trans (writesOnly_setCalValid _ _)
    exact rejected.endCommand _
  | false =>
    cases h.symm.trans (execCalLoad_accept hr)
    have loaded : WritesOnly [.coef, .status] s { s.setB5Fresh false with coef := s.calParse } :=
      stale.trans (writesOnly_coef _ _)
    have accepted : WritesOnly [.coef, .status] s
        (State.setCalValid { s.setB5Fresh false with coef := s.calParse } true) :=
      loaded.trans (writesOnly_setCalValid _ _)
    exact accepted.endCommand _

theorem writesOnly_cmpTemp {s t : State} (h : execCmpTemp s = .next t) : WritesOnly Instr.cmpTemp.writtenRegs s t := by
  have stale := writesOnly_setB5Fresh s false
  match hv : s.calValid with
  | false =>
    cases h.symm.trans (execCmpTemp_uncalibrated hv)
    exact stale.endCommand _
  | true =>
    by_cases hd : tempDen Config.divRound s.coef s.utCode = 0
    · cases h.symm.trans (execCmpTemp_divZero hv hd)
      exact stale.endCommand _
    · cases h.symm.trans (execCmpTemp_ok hv hd)
      have written : WritesOnly [.b5, .t10, .status] s
          ((s.setB5Fresh false).tempWritten (tempB5 Config.divRound s.coef s.utCode)) :=
        stale.trans (writesOnly_tempWritten _ _)
      exact written.endCommand _

theorem writesOnly_cmpPres {s t : State} (h : execCmpPres s = .next t) : WritesOnly Instr.cmpPres.writtenRegs s t := by
  have stale := writesOnly_setB5Fresh s false
  match hv : s.calValid, hf : s.b5Fresh with
  | false, _ =>
    cases h.symm.trans (execCmpPres_uncalibrated hv)
    exact stale.endCommand _
  | true, false =>
    cases h.symm.trans (execCmpPres_stale hv hf)
    exact stale.endCommand _
  | true, true =>
    match hp : pcomp Config.divRound s.coef s.b5.toInt (s.upCode.toNat : Int) s.oss with
    | none =>
      cases h.symm.trans (execCmpPres_divZero hv hf hp)
      exact stale.endCommand _
    | some pv =>
      cases h.symm.trans (execCmpPres_ok hv hf hp)
      have written : WritesOnly [.up, .p, .status] s ((s.setB5Fresh false).presWritten pv) :=
        stale.trans (writesOnly_presWritten _ _)
      exact written.endCommand _

theorem writesOnly_setCursor {s t : State} (h : execSetCursor s = .next t) :
    WritesOnly Instr.setCursor.writtenRegs s t := by
  have cleared := writesOnly_txn s 0x00#8
  by_cases hbad : 2 ≤ s.curRow.toNat ∨ 40 ≤ s.curCol.toNat
  · cases h.symm.trans (execSetCursor_reject hbad)
    exact cleared.endCommand _
  · cases h.symm.trans (execSetCursor_send (by omega) (by omega))
    exact cleared.nibSend _ _

/-- Settles O48: what each command writes before it ends, and the end of the command, lie in its line of the map; SRST
may write every register. -/
theorem commandsWriteOnlyTheirListedRegisters : Obligations.CommandsWriteOnlyTheirListedRegisters := by
  intro i s t hi h
  change WritesOnly i.writtenRegs s t
  cases i
  case hostWr | hostRd => cases hi
  case nop => cases h; exact writesOnly_endOk s
  case srst => cases h; exact ⟨fun r hr => absurd (by cases r <;> decide) hr, rfl, rfl⟩
  case illegal => cases h; exact ⟨keepsRegs_endCommand s .illegalCmd, rfl, rfl⟩
  case frmCrc =>
    cases h
    exact (writesOnly_crcReported s _ _).trans (writesOnly_endOk _)
  case frmCheck => exact writesOnly_frmCheck h
  case calLoad => exact writesOnly_calLoad h
  case cmpTemp => exact writesOnly_cmpTemp h
  case cmpPres => exact writesOnly_cmpPres h
  case setCursor => exact writesOnly_setCursor h
  case lcdCmd | lcdData => cases h; exact nibSend_keeps _ _ s
  all_goals
    cases h
    exact (writesOnly_dcs s _).nibSend _ _

end Sys2Proof.Machine

/-! PROOFS for spec/40_control.md: NOP, SRST and ILLEGAL (R90–R92). Each is one named operation of the state, so each
full next state is read off what that operation does. -/

namespace Sys2Proof.Machine

/-- The latch ignores OK (R90, R173): a command that ends OK writes RESULT only. -/
theorem endCommand_ok (s : State) : s.endCommand .ok = { s with result := 0x00#8 } := rfl

/-- The latch takes a failure when ERR is 0x00 and keeps ERR otherwise (R173). -/
theorem endCommand_of_failure {c : ResultCode} (hc : c.byte ≠ 0x00#8) (s : State) :
    s.endCommand c = { s with result := c.byte, err := if s.err = 0x00#8 then c.byte else s.err } := by
  simp only [State.endCommand, ne_eq, hc, not_false_eq_true, true_and]

/-- SRST gives every register its reset value (R91, R190). -/
theorem keepsRegs_softReset (s : State) : KeepsRegs [] State.reset s.softReset := by
  intro r _
  cases r <;> rfl

/-- SRST issues no bus write and takes nothing from the host side (R91). -/
theorem softReset_quiet (s : State) : PortQuiet s s.softReset ∧ HostSideKept s s.softReset :=
  ⟨⟨rfl, rfl, rfl, rfl⟩, rfl, rfl⟩

/-- Settles O9: NOP is the end of a command with OK. -/
theorem nopOnlyReportsOk : Obligations.NopOnlyReportsOk :=
  ⟨rfl, fun s => congrArg Host.Outcome.next (endCommand_ok s)⟩

/-- Settles O10: SRST is the soft reset. -/
theorem srstRestoresEveryRegister : Obligations.SrstRestoresEveryRegister :=
  ⟨rfl, fun s => ⟨s.softReset, rfl, keepsRegs_softReset s, softReset_quiet s⟩⟩

/-- Settles O11: a byte outside the map decodes to ILLEGAL, which is the end of a command with ILLEGAL_CMD. -/
theorem undefinedOpcodeOnlyReportsIllegal : Obligations.UndefinedOpcodeOnlyReportsIllegal := by
  intro c s hc
  have illegal : decodeCommand c = .illegal c :=
    decodeCommand_illegal c (by simpa only [List.contains_eq_mem, decide_eq_false_iff_not] using hc)
  rw [illegal]
  exact congrArg Host.Outcome.next (endCommand_of_failure (c := .illegalCmd) (by decide) s)

end Sys2Proof.Machine

/-! PROOFS for spec/41_frame.md: the CRC of R100 as an injective map of its running value, its published values, and
the outcomes of FRM_CRC and FRM_CHECK (R103–R107). -/

namespace Sys2Proof.Machine

/-! ## The CRC -/

/-- The bit step of R100 run backwards: only the polynomial sets bit 0, so bit 0 tells whether bit 7 was shifted out. -/
def crcUnstep (c : Byte) : Byte :=
  if c.getLsbD 0 then ((c ^^^ Config.crcPoly) >>> 1) ||| 0x80#8 else c >>> 1

theorem crcUnstep_crcStep : Function.LeftInverse crcUnstep crcStep := by
  unfold Function.LeftInverse
  decide +kernel

theorem crcStep_injective : Function.Injective crcStep := crcUnstep_crcStep.injective

/-- A byte of R100 loses nothing: two running values XORed with their bytes give one result only if they are equal. -/
theorem crcByte_eq_iff {c c' d d' : Byte} : crcByte c d = crcByte c' d' ↔ c ^^^ d = c' ^^^ d' := by
  simp only [crcByte, crcStep_injective.eq_iff]

/-- The same bytes after two running values keep them apart. -/
theorem foldl_crcByte_injective (ds : List Byte) : Function.Injective (ds.foldl crcByte) := by
  induction ds with
  | nil => exact Function.injective_id
  | cons d ds ih =>
    intro c c' h
    have hbyte : crcByte c d = crcByte c' d := ih h
    exact (BitVec.xor_left_inj d).mp (crcByte_eq_iff.mp hbyte)

/-- Replacing one byte of any message gives the same CRC only if the two bytes are equal. -/
theorem crc8_set_eq_iff {ds : List Byte} {i : Nat} (hi : i < ds.length) {x y : Byte} :
    crc8 (ds.set i x) = crc8 (ds.set i y) ↔ x = y := by
  simp only [crc8, List.set_eq_take_append_cons_drop, hi, if_true, List.foldl_append, List.foldl_cons,
    (foldl_crcByte_injective _).eq_iff, crcByte_eq_iff, BitVec.xor_right_inj]

/-- A byte with one bit flipped is another byte. -/
theorem xor_bit_ne_self {k : Nat} (hk : k < 8) (v : Byte) : v ^^^ (0x01#8 <<< k) ≠ v := by
  intro h
  have hbit : 0x01#8 <<< k = 0x00#8 := by simpa using h
  exact absurd hbit (by interval_cases k <;> decide)

/-- Settles O20: the flip replaces one byte of the message by another. -/
theorem anySingleBitFlipChangesTheCrc : Obligations.AnySingleBitFlipChangesTheCrc := by
  intro ds i k hlen hi hk hcrc
  have hi' : i < ds.length := hi.trans_eq hlen.symm
  have hself : ds.set i (ds.getD i 0x00#8) = ds := by simp [hi']
  have hbytes : ds.getD i 0x00#8 ^^^ (0x01#8 <<< k) = ds.getD i 0x00#8 :=
    (crc8_set_eq_iff hi').mp (hcrc.trans (congrArg crc8 hself).symm)
  exact xor_bit_ne_self hk _ hbytes

/-- A byte equal to the running value leaves 0x00. -/
theorem crcByte_self (c : Byte) : crcByte c c = 0x00#8 := by
  rw [crcByte, BitVec.xor_self]
  decide

theorem crc8_append_crc8 (ds : List Byte) : crc8 (ds ++ [crc8 ds]) = 0x00#8 := by
  rw [crc8, List.foldl_append]
  exact crcByte_self (crc8 ds)

/-- Settles O21: the last byte equals the running value. -/
theorem appendedCrcLeavesZero : Obligations.AppendedCrcLeavesZero :=
  fun d0 d1 d2 d3 d4 d5 => crc8_append_crc8 [d0, d1, d2, d3, d4, d5]

/-- Settles O22: the three messages are run. -/
theorem crcOfPublishedInputs : Obligations.CrcOfPublishedInputs := by
  unfold Obligations.CrcOfPublishedInputs
  decide +kernel

/-! ## FRM_CRC -/

theorem crcMismatch_eq_true_iff (s : State) : s.crcMismatch = true ↔ s.frameCrc ≠ s.frame[6] := bne_iff_ne

theorem crcMismatch_eq_false_iff (s : State) : s.crcMismatch = false ↔ s.frameCrc = s.frame[6] := bne_eq_false_iff_eq

theorem crcMismatch_eq (s : State) : s.crcMismatch = if s.frameCrc = s.frame[6] then false else true := by
  split
  case isTrue h => exact (crcMismatch_eq_false_iff s).mpr h
  case isFalse h => exact (crcMismatch_eq_true_iff s).mpr h

/-- Settles O16: FRM_CRC writes CRC_CALC and one bit of FSTAT, and ends with OK. -/
theorem frmCrcReportsMismatchOnly : Obligations.FrmCrcReportsMismatchOnly := by
  refine ⟨rfl, fun s => ⟨_, rfl, frameCrc_eq s, ?mismatch, ?otherFlags, rfl, ?frame⟩⟩
  case mismatch =>
    exact (Bool.eq_iff_iff.mp (fMismatch_setMismatch _ s.crcMismatch)).trans (crcMismatch_eq_true_iff s)
  case otherFlags =>
    obtain ⟨-, -, -, -, kept, -⟩ := setBit_spec s.fstat s.crcMismatch
    exact kept
  case frame =>
    obtain ⟨regs, hostSide⟩ : WritesOnly [.crcCalc, .fstat, .result] s _ :=
      (writesOnly_crcReported s s.frameCrc s.crcMismatch).trans (writesOnly_endOk _)
    exact ⟨regs, ⟨rfl, rfl, rfl, rfl⟩, hostSide⟩

/-! ## FRM_CHECK -/

theorem frmCheck_quiet {s t : State} (h : exec .frmCheck s = .next t) : PortQuiet s t :=
  command_quiet rfl (by decide) h

theorem frameBusy_eq_true {s : State} (h : 128 ≤ s.frame[0].toNat) : s.frameBusy = true := by
  rw [frameBusy_eq, decide_eq_true h]

theorem frameBusy_eq_false {s : State} (h : s.frame[0].toNat < 128) : s.frameBusy = false := by
  rw [frameBusy_eq, decide_eq_false (Nat.not_le.mpr h)]

/-- FSTAT of a busy frame has both flags (R104). -/
theorem frameFlags_fstat_busy {s : State} (hb : s.frameBusy = true) :
    s.frameFlags.fstat = if s.frameCrc = s.frame[6] then 0x01#8 else 0x03#8 := by
  change fstatWord s.crcMismatch s.frameBusy = _
  rw [hb, crcMismatch_eq]
  split <;> rfl

/-- FSTAT of a rejected frame that is not busy. -/
theorem frameFlags_fstat_mismatch {s : State} (hb : s.frameBusy = false) (hm : s.crcMismatch = true) :
    s.frameFlags.fstat = 0x02#8 := by
  change fstatWord s.crcMismatch s.frameBusy = _
  rw [hb, hm]
  rfl

/-- FSTAT of an accepted frame has VALID, and the mismatch as computed (R104). -/
theorem frameDecoded_fstat {s : State} (hb : s.frameBusy = false) :
    s.frameFlags.frameDecoded.fstat = if s.frameCrc = s.frame[6] then 0x04#8 else 0x06#8 := by
  change setBit (fstatWord s.crcMismatch s.frameBusy) 2 true = _
  rw [hb, crcMismatch_eq]
  split <;> rfl

@[simp] theorem frameFlags_rhRaw (s : State) : s.frameFlags.rhRaw = s.rhRaw := rfl
@[simp] theorem frameFlags_tRaw (s : State) : s.frameFlags.tRaw = s.tRaw := rfl
@[simp] theorem frameFlags_rhQ20 (s : State) : s.frameFlags.rhQ20 = s.rhQ20 := rfl
@[simp] theorem frameFlags_tcQ20 (s : State) : s.frameFlags.tcQ20 = s.tcQ20 := rfl

theorem frameDecoded_rhRaw (s : State) : s.frameDecoded.rhRaw.toNat = s.frameRh.toNat :=
  BitVec.toNat_setWidth_of_le (by decide)

theorem frameDecoded_tRaw (s : State) : s.frameDecoded.tRaw.toNat = s.frameT.toNat :=
  BitVec.toNat_setWidth_of_le (by decide)

/-- The registers an accepted frame writes (R104). -/
theorem writesOnly_frameAccepted (s : State) :
    WritesOnly [.crcCalc, .fstat, .rhRaw, .tRaw, .rhQ20, .tcQ20, .result] s (s.frameFlags.frameDecoded.endCommand .ok) :=
  have decoded : WritesOnly [.crcCalc, .fstat, .rhRaw, .tRaw, .rhQ20, .tcQ20] s s.frameFlags.frameDecoded :=
    (writesOnly_frameFlags s).trans (writesOnly_frameDecoded _)
  decoded.trans (writesOnly_endOk _)

/-- The registers a rejected frame writes (R104, R173). -/
theorem writesOnly_frameRejected (s : State) (c : ResultCode) :
    WritesOnly [.crcCalc, .fstat, .result, .err] s (s.frameFlags.endCommand c) :=
  (writesOnly_frameFlags s).endCommand c

/-- Settles O17: the frame passes both gates of FRM_CHECK, so its fields are decoded and converted. -/
theorem frmCheckAcceptsAndConverts : Obligations.FrmCheckAcceptsAndConverts := by
  intro s hfree hgate
  have hb : s.frameBusy = false := frameBusy_eq_false hfree
  have hm : (s.crcEn && s.crcMismatch) = false := by
    rw [← frameCrc_eq, ← crcMismatch_eq_false_iff] at hgate
    exact Bool.and_eq_false_iff.mpr hgate
  have hrun : exec .frmCheck s = .next (s.frameFlags.frameDecoded.endCommand .ok) := execFrmCheck_ok hb hm
  have hrh := frameDecoded_rhRaw s.frameFlags
  have ht := frameDecoded_tRaw s.frameFlags
  obtain ⟨regs, hostSide⟩ := writesOnly_frameAccepted s
  refine ⟨_, hrun, frameCrc_eq s, frameDecoded_fstat hb, hrh.trans (frameRh_toNat s), ht.trans (frameT_toNat s),
    ?humidity, ?temperature, rfl, regs, frmCheck_quiet hrun, hostSide⟩
  case humidity => exact (rhConvert_toNat _).trans (congrArg (· * 100) hrh.symm)
  case temperature => exact (tConvert_toInt _).trans (by rw [endCommand_tRaw, ht]; rfl)

/-- Settles O18: a busy frame fails the first gate of FRM_CHECK, a mismatch with CRC_EN set the second. -/
theorem frmCheckRejectsBusyThenCrc : Obligations.FrmCheckRejectsBusyThenCrc := by
  intro s
  rw [← frameCrc_eq]
  refine ⟨fun hbusy => ?_, fun hfree hen hcrc => ?_⟩
  · have hb : s.frameBusy = true := frameBusy_eq_true hbusy
    have hrun : exec .frmCheck s = .next (s.frameFlags.endCommand .frameBusy) := execFrmCheck_busy hb
    obtain ⟨regs, hostSide⟩ := writesOnly_frameRejected s .frameBusy
    exact ⟨_, hrun, rfl, frameFlags_fstat_busy hb, rfl, endCommand_err_latched _ _, regs, frmCheck_quiet hrun, hostSide⟩
  · have hb : s.frameBusy = false := frameBusy_eq_false hfree
    have hm : s.crcMismatch = true := (crcMismatch_eq_true_iff s).mpr hcrc
    have hrun : exec .frmCheck s = .next (s.frameFlags.endCommand .crcError) := execFrmCheck_crc hb hen hm
    obtain ⟨regs, hostSide⟩ := writesOnly_frameRejected s .crcError
    exact ⟨_, hrun, rfl, frameFlags_fstat_mismatch hb hm, rfl, endCommand_err_latched _ _, regs, frmCheck_quiet hrun,
      hostSide⟩

/-! ## What FRM_CHECK reads -/

/-- R107's outputs: the registers a frame check writes, without the latch ERR, read the same in both states. -/
def CheckedRegsAgree (t t' : State) : Prop :=
  ∀ r ∈ [Reg.crcCalc, .fstat, .result, .rhRaw, .tRaw, .rhQ20, .tcQ20], t.regBytes r = t'.regBytes r

section SameFrame

variable {s s' : State} (hf : s.frame = s'.frame)
include hf

theorem frameCrc_congr : s.frameCrc = s'.frameCrc := by simp only [State.frameCrc, hf]

theorem crcMismatch_congr : s.crcMismatch = s'.crcMismatch := by
  simp only [State.crcMismatch, frameCrc_congr hf, hf]

theorem frameBusy_congr : s.frameBusy = s'.frameBusy := by simp only [State.frameBusy, hf]

theorem frameRh_congr : s.frameRh = s'.frameRh := by simp only [State.frameRh, hf]

theorem frameT_congr : s.frameT = s'.frameT := by simp only [State.frameT, hf]

/-- FSTAT and CRC_CALC of both states' frame checks are equal (R104). -/
theorem frameFlags_congr :
    s.frameFlags.crcCalc = s'.frameFlags.crcCalc ∧ s.frameFlags.fstat = s'.frameFlags.fstat :=
  ⟨frameCrc_congr hf, congrArg₂ fstatWord (crcMismatch_congr hf) (frameBusy_congr hf)⟩

/-- An accepted frame overwrites every register R107 speaks of. -/
theorem frameAccepted_agree (c : ResultCode) :
    CheckedRegsAgree (s.frameFlags.frameDecoded.endCommand c) (s'.frameFlags.frameDecoded.endCommand c) := by
  obtain ⟨hcrc, hfstat⟩ := frameFlags_congr hf
  have hrh : s.frameFlags.frameRh = s'.frameFlags.frameRh := frameRh_congr hf
  have ht : s.frameFlags.frameT = s'.frameFlags.frameT := frameT_congr hf
  simp [CheckedRegsAgree, State.regBytes, State.frameDecoded, hcrc, hfstat, hrh, ht]

/-- A rejected frame keeps the decoded registers. -/
theorem frameRejected_agree (hrh : s.rhRaw = s'.rhRaw) (ht : s.tRaw = s'.tRaw) (hrhq : s.rhQ20 = s'.rhQ20)
    (htq : s.tcQ20 = s'.tcQ20) (c : ResultCode) :
    CheckedRegsAgree (s.frameFlags.endCommand c) (s'.frameFlags.endCommand c) := by
  obtain ⟨hcrc, hfstat⟩ := frameFlags_congr hf
  simp [CheckedRegsAgree, State.regBytes, hcrc, hfstat, hrh, ht, hrhq, htq]

end SameFrame

/-- Settles O19: both runs pass or fail the same gate, and what each outcome writes is a function of the frame. -/
theorem frmCheckReadsOnlyFrameAndGate : Obligations.FrmCheckReadsOnlyFrameAndGate := by
  intro s s' t t' hf hen hrh ht hrhq htq h h'
  refine ⟨?_, frmCheck_quiet h, frmCheck_quiet h'⟩
  have hbusy := frameBusy_congr hf
  have hmis := crcMismatch_congr hf
  match hb : s.frameBusy, hm : s.crcEn && s.crcMismatch with
  | true, _ =>
    cases h.symm.trans (execFrmCheck_busy hb)
    cases h'.symm.trans (execFrmCheck_busy (hbusy ▸ hb))
    exact frameRejected_agree hf hrh ht hrhq htq .frameBusy
  | false, true =>
    obtain ⟨hset, hdiff⟩ := Bool.and_eq_true_iff.mp hm
    cases h.symm.trans (execFrmCheck_crc hb hset hdiff)
    cases h'.symm.trans (execFrmCheck_crc (hbusy ▸ hb) (hen ▸ hset) (hmis ▸ hdiff))
    exact frameRejected_agree hf hrh ht hrhq htq .crcError
  | false, false =>
    cases h.symm.trans (execFrmCheck_ok hb hm)
    cases h'.symm.trans (execFrmCheck_ok (hbusy ▸ hb) (hen ▸ hmis ▸ hm))
    exact frameAccepted_agree hf .ok

end Sys2Proof.Machine

/-! PROOFS for spec/42_compensation.md: the outcomes of CAL_LOAD, CMP_TEMP and CMP_PRES (R121–R129), the pressure
formula as a datapath on 32-bit words (R126, R128), the temperature a pressure uses (R132, R133), and the worked
example. -/

namespace Sys2Proof.Machine

/-! ## Outcomes read backwards -/

/-- A command reports OK only where it ends with that code (R171). -/
theorem endCommand_result_eq_ok_iff {s : State} {c : ResultCode} :
    (s.endCommand c).result = 0x00#8 ↔ c = .ok := by
  rw [endCommand_result]
  cases c <;> decide

/-- A CMP_TEMP that reports OK took its last branch (R125). -/
theorem cmpTemp_succeeded {s t : State} (h : exec .cmpTemp s = .next t) (hr : t.result = 0x00#8) :
    t = ((s.setB5Fresh false).tempWritten (tempB5 Config.divRound s.coef s.utCode)).endCommand .ok := by
  match hv : s.calValid with
  | false =>
    cases h.symm.trans (execCmpTemp_uncalibrated hv)
    exact nomatch endCommand_result_eq_ok_iff.mp hr
  | true =>
    by_cases hd : tempDen Config.divRound s.coef s.utCode = 0
    · cases h.symm.trans (execCmpTemp_divZero hv hd)
      exact nomatch endCommand_result_eq_ok_iff.mp hr
    · exact Host.Outcome.next.inj (h.symm.trans (execCmpTemp_ok hv hd))

/-- A CMP_PRES that reports OK found B5 fresh and took its last branch (R129). -/
theorem cmpPres_succeeded {s t : State} (h : exec .cmpPres s = .next t) (hr : t.result = 0x00#8) :
    s.b5Fresh = true ∧ ∃ pv, pcomp Config.divRound s.coef s.b5.toInt (s.upCode.toNat : Int) s.oss = some pv ∧
      t = ((s.setB5Fresh false).presWritten pv).endCommand .ok := by
  match hv : s.calValid, hf : s.b5Fresh with
  | false, _ =>
    cases h.symm.trans (execCmpPres_uncalibrated hv)
    exact nomatch endCommand_result_eq_ok_iff.mp hr
  | true, false =>
    cases h.symm.trans (execCmpPres_stale hv hf)
    exact nomatch endCommand_result_eq_ok_iff.mp hr
  | true, true =>
    match hp : pcomp Config.divRound s.coef s.b5.toInt (s.upCode.toNat : Int) s.oss with
    | none =>
      cases h.symm.trans (execCmpPres_divZero hv hf hp)
      exact nomatch endCommand_result_eq_ok_iff.mp hr
    | some pv => exact ⟨rfl, pv, rfl, Host.Outcome.next.inj (h.symm.trans (execCmpPres_ok hv hf hp))⟩

/-! ## Effects of the outcomes -/

theorem setB5Fresh_status_others (s : State) (b : Bool) : (s.setB5Fresh b).status &&& 0xFD#8 = s.status &&& 0xFD#8 := by
  obtain ⟨-, -, -, -, kept, -⟩ := setBit_spec s.status b
  exact kept

/-- What CMP_TEMP and CMP_PRES do on every raise: B5 is stale, the code is reported and latched, nothing else is written
(R125, R129, R172). -/
theorem raise_effect {s t : State} {c : ResultCode} (ht : t = (s.setB5Fresh false).endCommand c) :
    t.result = c.byte ∧ t.err = latched c.byte s.err ∧ t.b5Fresh = false ∧
      t.status &&& 0xFD#8 = s.status &&& 0xFD#8 ∧
      KeepsRegs [.status, .result, .err] s t ∧ PortQuiet s t ∧ HostSideKept s t := by
  subst ht
  obtain ⟨regs, hostSide⟩ : WritesOnly [.status, .result, .err] s ((s.setB5Fresh false).endCommand c) :=
    (writesOnly_setB5Fresh s false).endCommand c
  exact ⟨rfl, rfl, b5Fresh_setB5Fresh s false, setB5Fresh_status_others s false, regs, ⟨rfl, rfl, rfl, rfl⟩, hostSide⟩

theorem tempWritten_status_others (s : State) (v : Int) : (s.tempWritten v).status &&& 0xFD#8 = s.status &&& 0xFD#8 :=
  setB5Fresh_status_others s true

/-! ## CAL_LOAD -/

/-- CAL_LOAD writes two flags of STATUS and keeps its other bits (R121). -/
theorem setBit_both_flags (v : Byte) (fresh valid : Bool) :
    (setBit (setBit v 1 fresh) 0 valid).getLsbD 1 = fresh ∧
    setBit (setBit v 1 fresh) 0 valid &&& 0xFC#8 = v &&& 0xFC#8 := by
  revert v fresh valid; decide +kernel

theorem hasSentinel_calParse_iff (s : State) :
    hasSentinel s.calParse = true ↔ ∃ k : Fin 11, s.calb[2 * k.val].toNat * 256 + s.calb[2 * k.val + 1].toNat = 0 ∨
      s.calb[2 * k.val].toNat * 256 + s.calb[2 * k.val + 1].toNat = 65535 := by
  simp only [hasSentinel_iff, calParse_toNat]

/-- The registers an accepted calibration block writes (R121). -/
theorem writesOnly_calAccepted (s : State) : WritesOnly [.coef, .status, .result] s
    ((State.setCalValid { s.setB5Fresh false with coef := s.calParse } true).endCommand .ok) :=
  have loaded : WritesOnly [.coef, .status] s { s.setB5Fresh false with coef := s.calParse } :=
    (writesOnly_setB5Fresh s false).trans (writesOnly_coef _ _)
  have flagged : WritesOnly [.coef, .status] s
      (State.setCalValid { s.setB5Fresh false with coef := s.calParse } true) :=
    loaded.trans (writesOnly_setCalValid _ _)
  flagged.trans (writesOnly_endOk _)

/-- The registers a rejected calibration block writes (R121). -/
theorem writesOnly_calRejected (s : State) : WritesOnly [.status, .result, .err] s
    (((s.setB5Fresh false).setCalValid false).endCommand .invalidCalibration) :=
  have flagged : WritesOnly [.status] s ((s.setB5Fresh false).setCalValid false) :=
    (writesOnly_setB5Fresh s false).trans (writesOnly_setCalValid _ _)
  flagged.endCommand _

/-- Settles O23: the parsed block has a sentinel exactly when one of the values is one. -/
theorem calLoadAcceptsExactlyNonSentinels : Obligations.CalLoadAcceptsExactlyNonSentinels := by
  refine ⟨rfl, fun s => ⟨fun hall => ?accepted, fun hbad => ?rejected⟩⟩
  case accepted =>
    have hs : hasSentinel s.calParse = false := by
      rw [← Bool.not_eq_true, hasSentinel_calParse_iff]
      rintro ⟨k, h0 | h1⟩
      · exact (hall k).1 h0
      · exact (hall k).2 h1
    have hrun : exec .calLoad s = .next _ := execCalLoad_accept hs
    obtain ⟨stale, others⟩ := setBit_both_flags s.status false true
    obtain ⟨regs, hostSide⟩ := writesOnly_calAccepted s
    exact ⟨_, hrun, calParse_toNat s, calValid_setCalValid _ true, stale, others, rfl, regs,
      command_quiet rfl (by decide) hrun, hostSide⟩
  case rejected =>
    have hrun : exec .calLoad s = .next _ := execCalLoad_reject ((hasSentinel_calParse_iff s).mpr hbad)
    obtain ⟨stale, others⟩ := setBit_both_flags s.status false false
    obtain ⟨regs, hostSide⟩ := writesOnly_calRejected s
    exact ⟨_, hrun, calValid_setCalValid _ false, stale, others, rfl, endCommand_err_latched _ _, regs,
      command_quiet rfl (by decide) hrun, hostSide⟩

/-! ## CMP_TEMP -/

/-- The divisor of R123 on 32-bit words. -/
theorem tempDen_floor (coef : Vector (BitVec 16) 11) (ut : Int) :
    tempDen .floor coef ut = (BitVec.ofInt 32 (tempX1 .floor coef ut + coef[10].toInt)).toInt := s32_eq_toInt _

theorem tempX1_floor (coef : Vector (BitVec 16) 11) (ut : Int) :
    tempX1 .floor coef ut =
      (BitVec.ofInt 32 ((ut - (coef[5].toNat : Int)) * (coef[4].toNat : Int))).toInt.fdiv 32768 := by
  rw [tempX1, s32_eq_toInt]
  rfl

theorem tempB5_floor (coef : Vector (BitVec 16) 11) (ut : Int) :
    tempB5 .floor coef ut = (BitVec.ofInt 32 (tempX1 .floor coef ut +
      (BitVec.ofInt 32 (coef[9].toInt * 2048)).toInt.fdiv (tempDen .floor coef ut))).toInt := by
  rw [tempB5, s32_eq_toInt, s32_eq_toInt]
  rfl

/-- T10 is a 32-bit word shifted, so it fits its register (R124). -/
theorem t10Of_floor (v : Int) : t10Of .floor v = ((BitVec.ofInt 32 (v + 8)).sshiftRight 4).toInt := by
  rw [t10Of, s32_eq_toInt, sdiv_floor_pow _ 4 16 (by decide)]

/-- The registers a CMP_TEMP that succeeds writes (R125). -/
theorem writesOnly_tempSucceeded (s : State) (b5v : Int) : WritesOnly [.b5, .t10, .status, .result] s
    (((s.setB5Fresh false).tempWritten b5v).endCommand .ok) :=
  have written : WritesOnly [.b5, .t10, .status] s ((s.setB5Fresh false).tempWritten b5v) :=
    (writesOnly_setB5Fresh s false).trans (writesOnly_tempWritten _ _)
  written.trans (writesOnly_endOk _)

/-- B5 holds its term exactly: the sum is reduced to 32 bits (R118, R123). -/
theorem toInt_ofInt_tempB5 (coef : Vector (BitVec 16) 11) (ut : Int) :
    (BitVec.ofInt 32 (tempB5 .floor coef ut)).toInt = tempB5 .floor coef ut := by
  rw [tempB5_floor, BitVec.ofInt_toInt]

/-- T10 holds the quotient of R124 exactly. -/
theorem toInt_ofInt_t10Of (v : Int) : (BitVec.ofInt 32 (t10Of .floor v)).toInt = t10Of .floor v := by
  rw [t10Of_floor, BitVec.ofInt_toInt]

/-- Settles O24: a calibrated CMP_TEMP whose divisor is not 0 takes its last branch. -/
theorem cmpTempComputesB5AndT10 : Obligations.CmpTempComputesB5AndT10 := by
  intro s w x1 den hv hden
  have hx1 : tempX1 .floor s.coef s.utCode = x1 := tempX1_floor s.coef s.utCode
  have hden' : tempDen .floor s.coef s.utCode = den := by rw [tempDen_floor, hx1]
  have hrun : exec .cmpTemp s = .next _ := execCmpTemp_ok hv (hden'.trans_ne hden)
  obtain ⟨regs, hostSide⟩ := writesOnly_tempSucceeded s (tempB5 .floor s.coef s.utCode)
  refine ⟨_, hrun, ?b5, ?t10, b5Fresh_setB5Fresh _ true, ?others, rfl, regs, command_quiet rfl (by decide) hrun,
    hostSide⟩
  case others => exact (tempWritten_status_others _ _).trans (setB5Fresh_status_others s false)
  case b5 =>
    calc (BitVec.ofInt 32 (tempB5 .floor s.coef s.utCode)).toInt
      _ = tempB5 .floor s.coef s.utCode := toInt_ofInt_tempB5 _ _
      _ = w (x1 + (w (s.coef[9].toInt * 2048)).fdiv den) := by rw [tempB5_floor, hx1, hden']
  case t10 =>
    calc (BitVec.ofInt 32 (t10Of .floor (tempB5 .floor s.coef s.utCode))).toInt
      _ = t10Of .floor (tempB5 .floor s.coef s.utCode) := toInt_ofInt_t10Of _
      _ = (w (tempB5 .floor s.coef s.utCode + 8)).fdiv 16 := by rw [t10Of, s32_eq_toInt]; rfl
      _ = (w ((BitVec.ofInt 32 (tempB5 .floor s.coef s.utCode)).toInt + 8)).fdiv 16 := by rw [toInt_ofInt_tempB5]

/-- Settles O25: the two raises of R125, in its order. -/
theorem cmpTempFailuresKeepB5 : Obligations.CmpTempFailuresKeepB5 := by
  intro s w x1
  refine ⟨fun hv => ⟨_, execCmpTemp_uncalibrated hv, raise_effect (c := .invalidCalibration) rfl⟩, fun hv hden => ?_⟩
  have hd : tempDen Config.divRound s.coef s.utCode = 0 := by
    rw [Config.divRound, tempDen_floor, tempX1_floor]
    exact hden
  exact ⟨_, execCmpTemp_divZero hv hd, raise_effect (c := .divZero) rfl⟩

/-! ## The pressure datapath on 32-bit words -/

/-- A left shift is the reduced product with a power of two (R126, B3). -/
theorem ofInt_mul_two_pow (x : BitVec 32) (k : Nat) : BitVec.ofInt 32 (x.toInt * 2 ^ k) = x <<< k := by
  have hpow : BitVec.ofInt 32 (2 ^ k) = BitVec.twoPow 32 k := by
    apply BitVec.eq_of_toNat_eq
    rw [BitVec.toNat_ofInt, BitVec.toNat_twoPow]
    norm_cast
  rw [BitVec.ofInt_mul, BitVec.ofInt_toInt, hpow, BitVec.shiftLeft_eq_mul_twoPow]

theorem ofInt_toNat (x : BitVec 32) : BitVec.ofInt 32 (x.toNat : Int) = x := by
  rw [BitVec.ofInt_natCast, BitVec.ofNat_toNat, BitVec.setWidth_eq]

theorem zext16_eq (v : BitVec 16) : zext16 v = ((v.zeroExtend 32).toNat : Int) :=
  congrArg Nat.cast (BitVec.toNat_setWidth_of_le (by decide)).symm

theorem s32_toNat (x : BitVec 32) : s32 (x.toNat : Int) = x.toInt := by rw [s32_eq_toInt, ofInt_toNat]

/-- The signed terms of R126: a coefficient times a word, divided by a power of two. -/
theorem sdiv_sext16_mul (c : BitVec 16) (x : BitVec 32) (k : Nat) (d : Int) (hd : d = 2 ^ k) :
    sdiv .floor (s32 (sext16 c * x.toInt)) d = ((c.signExtend 32 * x).sshiftRight k).toInt := by
  rw [sext16_eq, s32_mul, sdiv_floor_pow _ k d hd]

/-- The 2 that R126 adds before a division by 4. -/
theorem s32_add_two (x : BitVec 32) : s32 (x.toInt + 2) = (x + 2#32).toInt := s32_add x 2#32

theorem presB6_word (b5 : BitVec 32) : presB6 b5.toInt = (b5 - 4000#32).toInt := s32_sub b5 4000#32

section Words

variable {b5v : Int} {b6 sq : BitVec 32}

theorem presS_word (h6 : presB6 b5v = b6.toInt) : presS .floor b5v = ((b6 * b6).sshiftRight 12).toInt := by
  rw [presS, h6, s32_mul, sdiv_floor_pow _ 12 4096 (by decide)]

theorem presB3_word (h6 : presB6 b5v = b6.toInt) (hS : presS .floor b5v = sq.toInt) (coef : Vector (BitVec 16) 11)
    (oss : Nat) : presB3 .floor coef b5v oss =
      ((((coef[0].signExtend 32 * 4#32 + ((coef[7].signExtend 32 * sq).sshiftRight 11 +
        (coef[1].signExtend 32 * b6).sshiftRight 11)) <<< oss) + 2#32).sshiftRight 2).toInt := by
  have hfour (c : BitVec 16) (x : BitVec 32) : s32 (sext16 c * 4 + x.toInt) = (c.signExtend 32 * 4#32 + x).toInt := by
    rw [sext16_eq, s32_eq_toInt, BitVec.ofInt_add, BitVec.ofInt_mul, BitVec.ofInt_toInt, BitVec.ofInt_toInt]
    rfl
  have hshift (x : BitVec 32) : s32 (x.toInt * 2 ^ oss) = (x <<< oss).toInt := by
    rw [s32_eq_toInt, ofInt_mul_two_pow]
  rw [presB3, h6, hS, sdiv_sext16_mul _ _ 11 2048 (by decide), sdiv_sext16_mul _ _ 11 2048 (by decide)]
  simp only [s32_add, hfour, hshift, s32_add_two, sdiv_floor_pow _ 2 4 (by decide)]

theorem presB4_word (h6 : presB6 b5v = b6.toInt) (hS : presS .floor b5v = sq.toInt) (coef : Vector (BitVec 16) 11) :
    presB4 .floor coef b5v =
      (((coef[3].zeroExtend 32 * (((coef[2].signExtend 32 * b6).sshiftRight 13 +
        (coef[6].signExtend 32 * sq).sshiftRight 16 + 2#32).sshiftRight 2 + 32768#32)) >>> 15).toNat : Int) := by
  have hbias (x : BitVec 32) : u32 (x.toInt + 32768) = ((x + 32768#32).toNat : Int) := by
    rw [u32_eq_toNat, BitVec.ofInt_add, BitVec.ofInt_toInt]
    rfl
  rw [presB4, h6, hS, sdiv_sext16_mul _ _ 13 8192 (by decide), sdiv_sext16_mul _ _ 16 65536 (by decide),
    s32_add, s32_add_two, sdiv_floor_pow _ 2 4 (by decide), hbias, zext16_eq, u32_eq_toNat, BitVec.ofInt_mul,
    ofInt_toNat, ofInt_toNat, BitVec.toNat_ushiftRight, Nat.shiftRight_eq_div_pow]
  rfl

end Words

theorem presB7_word (upv b3 : BitVec 32) (oss : Nat) :
    presB7 (upv.toNat : Int) b3.toInt oss = (((upv - b3) * (50000#32 >>> oss)).toNat : Int) := by
  have hsub : BitVec.ofInt 32 ((upv.toNat : Int) - b3.toInt) = upv - b3 := by
    rw [Int.sub_eq_add_neg, BitVec.ofInt_add, BitVec.ofInt_neg, ofInt_toNat, BitVec.ofInt_toInt, BitVec.sub_eq_add_neg]
  have hscale : ((50000 >>> oss : Nat) : Int) = ((50000#32 >>> oss).toNat : Int) := by
    rw [BitVec.toNat_ushiftRight]
    rfl
  rw [presB7, hscale, u32_eq_toNat, u32_eq_toNat, hsub, BitVec.ofInt_mul, ofInt_toNat, ofInt_toNat]

/-- The branch keeps `B7 × 2` inside 32 unsigned bits (R128). -/
theorem presQuot_word (b7 b4 : BitVec 32) : presQuot (b7.toNat : Int) (b4.toNat : Int) =
    (if b7 < 0x80000000#32 then b7 * 2#32 / b4 else b7 / b4 * 2#32).toInt := by
  have hudiv (m n : Nat) : udiv (m : Int) (n : Int) = ((m / n : Nat) : Int) := (Int.ofNat_fdiv m n).symm
  have hlt : (b7.toNat : Int) < 2147483648 ↔ b7 < 0x80000000#32 := by
    rw [BitVec.lt_def]; norm_cast
  rw [presQuot]
  by_cases h : b7 < 0x80000000#32
  · rw [if_pos h, if_pos (hlt.mpr h)]
    have hfits : (b7 * 2#32).toNat = b7.toNat * 2 :=
      BitVec.toNat_mul_of_lt (y := 2#32) (by have := hlt.mpr h; change b7.toNat * 2 < 4294967296; omega)
    rw [← s32_toNat, BitVec.toNat_udiv, hfits, ← hudiv]
    rfl
  · rw [if_neg h, if_neg (mt hlt.mp h), hudiv, ← BitVec.toNat_udiv, u32_eq_toNat, BitVec.ofInt_mul, ofInt_toNat,
      s32_toNat]
    rfl

theorem presFinal_word (p : BitVec 32) : presFinal .floor p.toInt =
    (p + ((p.sshiftRight 8 * p.sshiftRight 8 * 3038#32).sshiftRight 16 + (-7357#32 * p).sshiftRight 16 +
      3791#32).sshiftRight 4).toInt := by
  have hsquare (x : BitVec 32) : s32 (x.toInt * 3038) = (x * 3038#32).toInt := s32_mul x 3038#32
  have hslope : s32 (-7357 * p.toInt) = (-7357#32 * p).toInt := s32_mul (-7357#32) p
  have hsum (x y : BitVec 32) : s32 (x.toInt + y.toInt + 3791) = (x + y + 3791#32).toInt := by
    rw [s32_eq_toInt, BitVec.ofInt_add, BitVec.ofInt_add, BitVec.ofInt_toInt, BitVec.ofInt_toInt]
    rfl
  rw [presFinal]
  simp only [sdiv_floor_pow _ 8 256 (by decide), sdiv_floor_pow _ 16 65536 (by decide),
    sdiv_floor_pow _ 4 16 (by decide), s32_mul, hsquare, hslope, hsum, s32_add]

/-- Settles O28: each line of R126 is its line on words. -/
theorem pressureIsThe32BitDatapath : Obligations.PressureIsThe32BitDatapath := by
  intro coef b5 upv oss _ s16 u16 b6 sq x3 b3 y3 b4 b7 p q z1 z2
  have h6 : presB6 b5.toInt = b6.toInt := presB6_word b5
  have hS : presS .floor b5.toInt = sq.toInt := presS_word h6
  have h3 : presB3 .floor coef b5.toInt oss = b3.toInt := presB3_word h6 hS coef oss
  have h4 : presB4 .floor coef b5.toInt = (b4.toNat : Int) := presB4_word h6 hS coef
  have h7 : presB7 (upv.toNat : Int) b3.toInt oss = (b7.toNat : Int) := presB7_word upv b3 oss
  have hp : presQuot (b7.toNat : Int) (b4.toNat : Int) = p.toInt := presQuot_word b7 b4
  have hzero : (b4.toNat : Int) = 0 ↔ b4 = 0#32 := by
    rw [Int.natCast_eq_zero, ← BitVec.toNat_inj]
    rfl
  have hP : presFinal .floor p.toInt = (p + (z1 + z2 + 3791#32).sshiftRight 4).toInt := presFinal_word p
  rw [pcomp, h4, h3, h7, hp, hP]
  simp only [hzero]

/-! ## CMP_PRES -/

/-- The registers a CMP_PRES that succeeds writes (R129). -/
theorem writesOnly_presSucceeded (s : State) (pv : Int) : WritesOnly [.up, .p, .status, .result] s
    (((s.setB5Fresh false).presWritten pv).endCommand .ok) :=
  have written : WritesOnly [.up, .p, .status] s ((s.setB5Fresh false).presWritten pv) :=
    (writesOnly_setB5Fresh s false).trans (writesOnly_presWritten _ _)
  written.trans (writesOnly_endOk _)

/-- Settles O26: the last two branches of R129, by what `pcomp` answers. -/
theorem cmpPresConsumesB5 : Obligations.CmpPresConsumesB5 := by
  intro s hv hf upv
  have hup : s.upCode.toNat = upv := upCode_toNat s
  rw [← hup]
  refine ⟨fun pv hp => ?_, fun hp => ⟨_, execCmpPres_divZero hv hf hp, raise_effect (c := .divZero) rfl⟩⟩
  have hrun : exec .cmpPres s = .next _ := execCmpPres_ok hv hf hp
  obtain ⟨regs, hostSide⟩ := writesOnly_presSucceeded s pv
  exact ⟨_, hrun, rfl, rfl, b5Fresh_setB5Fresh s false, setB5Fresh_status_others s false, rfl, regs,
    command_quiet rfl (by decide) hrun, hostSide⟩

/-- Settles O27: the first two raises of R129, in its order. -/
theorem cmpPresRefusesUncalibratedThenStale : Obligations.CmpPresRefusesUncalibratedThenStale := fun _ =>
  ⟨fun hv => ⟨_, execCmpPres_uncalibrated hv, raise_effect (c := .invalidCalibration) rfl⟩,
   fun hv hf => ⟨_, execCmpPres_stale hv hf, raise_effect (c := .staleB5) rfl⟩⟩

/-! ## Determinism -/

theorem upCode_congr {s s' : State} (hu : s.upraw = s'.upraw) (ho : s.oss = s'.oss) : s.upCode = s'.upCode := by
  rw [State.upCode, State.upCode, hu, ho]

/-- Settles O30: what a success writes is named in terms of the inputs alone. -/
theorem compensationDependsOnItsInputsAlone : Obligations.CompensationDependsOnItsInputsAlone := by
  refine ⟨fun s s' t t' hcoef hut h h' hr hr' => ?temperature,
    fun s s' t t' hcoef hb5 hupraw hoss h h' hr hr' => ?pressure⟩
  case temperature =>
    have hcode : s.utCode = s'.utCode := congrArg (fun u : BitVec 16 => (u.toNat : Int)) hut
    rw [cmpTemp_succeeded h hr, cmpTemp_succeeded h' hr', hcoef, hcode]
    exact ⟨rfl, rfl⟩
  case pressure =>
    have hup := upCode_congr hupraw hoss
    obtain ⟨-, pv, hp, rfl⟩ := cmpPres_succeeded h hr
    obtain ⟨-, pv', hp', rfl⟩ := cmpPres_succeeded h' hr'
    rw [hcoef, hb5, hup, hoss, hp'] at hp
    cases hp
    exact ⟨hup, rfl⟩

/-! ## The B5 a pressure uses -/

/-- The registers that read the same include B5 only if B5 is the same word. -/
theorem b5_eq_of_keepsRegs {rs : List Reg} {s t : State} (h : KeepsRegs rs s t) (hb : .b5 ∉ rs) : t.b5 = s.b5 := by
  obtain ⟨-, -, value⟩ := ofBytes_bytesOf
  exact BitVec.eq_of_toNat_eq (by rw [← value, ← value]; exact congrArg ofBytes (h .b5 hb))

theorem storeByte_b5 (s : State) (r : Reg) (k : Nat) (b : Byte) : (s.storeByte r k b).b5 = s.b5 := by
  cases r <;> rfl

/-- A HostWrite outside CMD stores in no byte of B5: the register is read-only (R24). -/
theorem hostWr_b5 {a b : Byte} {s t : State} (ha : a ≠ 0x02#8) (h : execHostWr a b s = .next t) : t.b5 = s.b5 := by
  rcases execHostWr_cases a b s with ⟨ha', -⟩ | ⟨-, he⟩ | ⟨r, k, -, -, he⟩ | ⟨-, -, he⟩
  · exact absurd ha' ha
  all_goals
    rw [he] at h
    cases h
  · rfl
  · exact storeByte_b5 s r.reg k b
  · rfl

/-- Of the commands CMP_TEMP and SRST write B5, and both touch B5_FRESH (R72). -/
theorem b5_notMem_writtenRegs {i : Instr} (hn : i.touchesFresh = false) : .b5 ∉ i.writtenRegs := by
  cases i
  case cmpTemp | srst => cases hn
  all_goals simp [Instr.writtenRegs]

/-- An instruction that leaves B5_FRESH alone leaves B5 alone. -/
theorem exec_b5_of_not_touchesFresh {i : Instr} {s t : State} (hn : i.touchesFresh = false) (h : exec i s = .next t) :
    t.b5 = s.b5 := by
  by_cases hc : i.performed.isCommand = true
  · obtain ⟨regs, -⟩ := commandsWriteOnlyTheirListedRegisters i.performed s t hc ((exec_performed i s).trans h)
    exact b5_eq_of_keepsRegs regs (b5_notMem_writtenRegs ((touchesFresh_performed i).trans hn))
  · cases i
    case hostRd a => cases h; rfl
    case hostWr a b =>
      have ha : a ≠ 0x02#8 := by
        rintro rfl
        exact hc (isCommand_decodeCommand b)
      exact hostWr_b5 ha h
    all_goals exact absurd rfl hc

theorem execAll_cons {i : Instr} {l : List Instr} {s t : State} (h : exec i s = .next t) :
    execAll (i :: l) s = execAll l t := by
  simp only [execAll, h]

/-- A run with one instruction more is the run and then that instruction. -/
theorem execAll_concat {l : List Instr} {i : Instr} {s u : State} (h : execAll (l ++ [i]) s = some u) :
    ∃ m, execAll l s = some m ∧ exec i m = .next u := by
  induction l generalizing s with
  | nil =>
    refine ⟨s, rfl, ?_⟩
    simp only [List.nil_append, execAll] at h
    split at h
    · cases h; assumption
    · cases h
    · cases h
  | cons j l ih =>
    simp only [List.cons_append, execAll] at h ⊢
    split at h
    · rename_i n hn
      simpa only [hn] using ih h
    · cases h
    · cases h

/-- The run `l` from `s` to `u` holds a CMP_TEMP that succeeded, `u` has the B5 it left, and nothing after it touches
B5_FRESH (R133). -/
def HasLatestTemperature (l : List Instr) (s u : State) : Prop :=
  ∃ a i b m n, l = a ++ i :: b ∧ execAll a s = some m ∧ exec i m = .next n ∧ i.performed = .cmpTemp ∧
    n.result = 0x00#8 ∧ u.b5 = n.b5 ∧ ∀ k ∈ b, k.touchesFresh = false

/-- A CMP_TEMP that has just succeeded is the latest one. -/
theorem hasLatestTemperature_of_cmpTemp {l : List Instr} {i : Instr} {s m u : State} (hl : execAll l s = some m)
    (hi : exec i m = .next u) (hp : i.performed = .cmpTemp) (hr : u.result = 0x00#8) :
    HasLatestTemperature (l ++ [i]) s u :=
  ⟨l, i, [], m, u, rfl, hl, hi, hp, hr, rfl, by simp⟩

/-- An instruction that leaves B5_FRESH alone keeps the latest temperature. -/
theorem HasLatestTemperature.concat {l : List Instr} {i : Instr} {s m u : State} (h : HasLatestTemperature l s m)
    (hi : exec i m = .next u) (hn : i.touchesFresh = false) : HasLatestTemperature (l ++ [i]) s u := by
  obtain ⟨a, j, b, m', n, rfl, ha, hj, hp, hr, hb5, hb⟩ := h
  refine ⟨a, j, b ++ [i], m', n, by simp, ha, hj, hp, hr, (exec_b5_of_not_touchesFresh hn hi).trans hb5, ?_⟩
  simpa only [List.forall_mem_append, List.forall_mem_singleton] using ⟨hb, hn⟩

/-- B5 made fresh along a run is the B5 of the latest CMP_TEMP: the last instruction is that CMP_TEMP, or kept a fresh
B5 (R26). -/
theorem hasLatestTemperature_of_fresh {l : List Instr} {s u : State} (hs : s.b5Fresh = false)
    (hrun : execAll l s = some u) (hu : u.b5Fresh = true) : HasLatestTemperature l s u := by
  induction l using List.reverseRecOn generalizing u with
  | nil =>
    cases hrun
    simp [hs] at hu
  | append_singleton l i ih =>
    obtain ⟨m, hl, hi⟩ := execAll_concat hrun
    rcases onlyCmpTempMakesB5Fresh i m u hi hu with ⟨hp, hr⟩ | ⟨hn, hm⟩
    · exact hasLatestTemperature_of_cmpTemp hl hi hp hr
    · exact (ih hl hm).concat hi hn

/-- Settles O32: a CMP_PRES that succeeds found B5 fresh. -/
theorem everySuccessfulPressureUsesTheLatestTemperature :
    Obligations.EverySuccessfulPressureUsesTheLatestTemperature := by
  intro l s u t hs hrun hpres hr
  obtain ⟨fresh, -⟩ := cmpPres_succeeded hpres hr
  exact hasLatestTemperature_of_fresh hs hrun fresh

/-! ## Usable calibration -/

/-- The invariant speaks of CAL_VALID and COEF only. -/
theorem State.CalibrationUsable.congr {s t : State} (h : s.CalibrationUsable)
    (ht : t.calValid = s.calValid ∧ t.coef = s.coef) : t.CalibrationUsable := by
  obtain ⟨valid, coef⟩ := ht
  rwa [State.CalibrationUsable, valid, coef]

/-- A state that claims no calibration has nothing to meet. -/
theorem calibrationUsable_of_not_calValid {s : State} (hv : s.calValid = false) : s.CalibrationUsable :=
  fun h => absurd (hv.symm.trans h) Bool.false_ne_true

/-- An accepted block holds no sentinel (R121). -/
theorem not_sentinel_of_hasSentinel_false {raw : Vector (BitVec 16) 11} (h : hasSentinel raw = false) :
    ∀ v ∈ raw.toList, v ≠ 0x0000#16 ∧ v ≠ 0xFFFF#16 := by
  intro v hv
  have hnot : Config.calSentinels.contains v = false := by simpa using List.any_eq_false.mp h v hv
  simpa [Config.calSentinels] using hnot

/-- A store reaches neither CAL_VALID nor COEF: a write to UT changes the other flag of STATUS (R36). -/
theorem storeByte_keeps_calibration (s : State) (r : Reg) (k : Nat) (b : Byte) :
    (s.storeByte r k b).calValid = s.calValid ∧ (s.storeByte r k b).coef = s.coef := by
  cases r
  case ut => exact ⟨calValid_setB5Fresh _ false, rfl⟩
  all_goals exact ⟨rfl, rfl⟩

theorem nibSend_keeps_calibration (b rs : Byte) (s : State) :
    (s.nibSend b rs).calValid = s.calValid ∧ (s.nibSend b rs).coef = s.coef :=
  ⟨congrArg (·.getLsbD 0) (nibSend_status b rs s), by rw [nibSend_eq]⟩

theorem reset_calValid : State.reset.calValid = false := by decide

theorem calibrationUsable_keptByOperations : KeptByOperations State.CalibrationUsable where
  pending _ _ h := h
  reads _ _ h := h
  powerOnReset _ := calibrationUsable_of_not_calValid reset_calValid
  softReset _ := calibrationUsable_of_not_calValid reset_calValid
  endCommand _ _ _ h := h
  clearErr _ h := h
  storeByte s r k b h := h.congr (storeByte_keeps_calibration s r k b)
  crcReported _ _ _ h := h
  frameFlags _ h := h
  frameDecoded _ _ h := h
  calRejected _ _ := calibrationUsable_of_not_calValid (calValid_setCalValid _ false)
  calAccepted _ hs _ := fun _ => not_sentinel_of_hasSentinel_false hs
  b5Consumed s h := h.congr ⟨calValid_setB5Fresh s false, rfl⟩
  tempWritten s v _ h := h.congr ⟨(calValid_tempWritten _ v).trans (calValid_setB5Fresh s false), rfl⟩
  presWritten s _ h := h.congr ⟨calValid_setB5Fresh s false, rfl⟩
  txnCleared _ h := h
  dcsWritten _ _ _ h := h
  nibSend s b rs h := h.congr (nibSend_keeps_calibration b rs s)

/-- Settles O53: CAL_LOAD alone sets CAL_VALID, and then installs a block without sentinels. -/
theorem everyStepKeepsCalibrationUsable : Obligations.EveryStepKeepsCalibrationUsable :=
  fun _ _ hs h => calibrationUsable_keptByOperations.of_step h hs

/-! ## The worked example -/

/-- The calibration bytes of the BMP180 worked example, spec/95_test_vectors.md section 2.3. -/
def datasheetCalb : Vector Byte 22 :=
  #v[0x01#8, 0x98#8, 0xFF#8, 0xB8#8, 0xC7#8, 0xD1#8, 0x7F#8, 0xE5#8, 0x7F#8, 0xF5#8, 0x5A#8, 0x71#8, 0x18#8, 0x2E#8,
    0x00#8, 0x04#8, 0x80#8, 0x00#8, 0xDD#8, 0xF9#8, 0x0B#8, 0x34#8]

/-- The coefficients they hold. -/
def datasheetCoef : Vector (BitVec 16) 11 :=
  #v[0x0198#16, 0xFFB8#16, 0xC7D1#16, 0x7FE5#16, 0x7FF5#16, 0x5A71#16, 0x182E#16, 0x0004#16, 0x8000#16, 0xDDF9#16,
    0x0B34#16]

/-- The parse of R120 reads the calibration bytes alone. -/
theorem calParse_congr {s s' : State} (h : s.calb = s'.calb) : s.calParse = s'.calParse :=
  congrArg (fun c => State.calParse { s with calb := c }) h

theorem calParse_datasheet {s : State} (h : s.calb = datasheetCalb) : s.calParse = datasheetCoef :=
  have parsed : State.calParse { State.reset with calb := datasheetCalb } = datasheetCoef := by decide +kernel
  (calParse_congr h).trans parsed

theorem datasheetCoef_not_sentinel : hasSentinel datasheetCoef = false := by decide +kernel

/-- UT = 27898 gives B5 = 2399 (R123). -/
theorem tempB5_datasheet : tempDen .floor datasheetCoef 27898 ≠ 0 ∧ tempB5 .floor datasheetCoef 27898 = 2399 := by
  decide +kernel

/-- B5 = 2399 and UP = 23843 at OSS = 0 give P = 69964 (R126). -/
theorem pcomp_datasheet : pcomp .floor datasheetCoef 2399 23843 0 = some 69964 := by decide +kernel

theorem calLoad_datasheet {s : State} (hraw : s.calParse = datasheetCoef) :
    ∃ t, exec .calLoad s = .next t ∧ t.calValid = true ∧ t.coef = datasheetCoef ∧ t.ut = s.ut ∧ t.upraw = s.upraw ∧
      t.oss = s.oss ∧ t.err = s.err :=
  ⟨_, execCalLoad_accept (hraw ▸ datasheetCoef_not_sentinel), calValid_setCalValid _ true, hraw, rfl, rfl, rfl, rfl⟩

theorem cmpTemp_datasheet {s : State} (hv : s.calValid = true) (hcoef : s.coef = datasheetCoef)
    (hut : s.ut = 27898#16) :
    ∃ t, exec .cmpTemp s = .next t ∧ t.b5 = 2399#32 ∧ t.t10 = 150#32 ∧ t.b5Fresh = true ∧ t.calValid = true ∧
      t.coef = datasheetCoef ∧ t.upraw = s.upraw ∧ t.oss = s.oss ∧ t.err = s.err := by
  obtain ⟨hden, hb5⟩ := tempB5_datasheet
  have hcode : s.utCode = 27898 := congrArg (fun u : BitVec 16 => (u.toNat : Int)) hut
  rw [← hcoef, ← hcode] at hden hb5
  refine ⟨_, execCmpTemp_ok hv hden, ?b5, ?t10, b5Fresh_setB5Fresh _ true, by simpa using hv, hcoef, rfl, rfl, rfl⟩
  case b5 => exact congrArg (BitVec.ofInt 32) hb5
  case t10 => exact congrArg (fun v => BitVec.ofInt 32 (t10Of .floor v)) hb5

theorem cmpPres_datasheet {s : State} (hv : s.calValid = true) (hf : s.b5Fresh = true) (hcoef : s.coef = datasheetCoef)
    (hb5 : s.b5 = 2399#32) (hupraw : s.upraw = 0x5D2300#24) (hoss : s.oss = 0) :
    ∃ t, exec .cmpPres s = .next t ∧ t.up.toNat = 23843 ∧ t.p.toInt = 69964 ∧ t.result = 0x00#8 ∧ t.b5 = s.b5 ∧
      t.t10 = s.t10 ∧ t.err = s.err := by
  have hup : s.upCode.toNat = 23843 := by rw [upCode_toNat, hupraw, hoss]; decide
  have hp : pcomp Config.divRound s.coef s.b5.toInt (s.upCode.toNat : Int) s.oss = some 69964 := by
    rw [hcoef, hb5, hup, hoss]
    exact pcomp_datasheet
  exact ⟨_, execCmpPres_ok hv hf hp, hup, (by decide : (BitVec.ofInt 32 69964).toInt = 69964), rfl, rfl, rfl, rfl⟩

/-- Settles O29: each command finds what the one before it left. -/
theorem datasheetExampleIsReproduced : Obligations.DatasheetExampleIsReproduced := by
  intro s hcalb hut hupraw hoss
  have bytes : s.calb = datasheetCalb := Vector.toList_inj.mp hcalb
  obtain ⟨s1, load, hv1, hcoef1, hut1, hupraw1, hoss1, herr1⟩ := calLoad_datasheet (calParse_datasheet bytes)
  obtain ⟨s2, temp, hb5, ht10, hf2, hv2, hcoef2, hupraw2, hoss2, herr2⟩ :=
    cmpTemp_datasheet hv1 hcoef1 (hut1.trans hut)
  obtain ⟨u, pres, hup, hp, hr, hb5', ht10', herr⟩ := cmpPres_datasheet hv2 hf2 hcoef2 hb5
    (hupraw2.trans (hupraw1.trans hupraw)) (hoss2.trans (hoss1.trans hoss))
  have hrun : execAll [.calLoad, .cmpTemp, .cmpPres] s = some u := by
    rw [execAll_cons load, execAll_cons temp, execAll_cons pres, execAll]
  refine ⟨u, hrun, ?_, ?_, hup, hp, hr, herr.trans (herr2.trans herr1)⟩
  · rw [hb5', hb5]; decide
  · rw [ht10', ht10]; decide

end Sys2Proof.Machine

/-! SUPPORT and PROOFS for spec/43_nibble.md: the four bus bytes as numbers (R150, R161), what a transmission leaves when
every write is acknowledged and when one is NACKed (R150, R172), and what each NIB command sends (R151–R160). -/

namespace Sys2Proof.Machine

/-! ## The four bus bytes -/

/-- Clearing EN of a bus byte leaves the nibble and the other control bits (R161). -/
theorem busByte_enCleared (x : Byte) {rs : Byte} (hrs : rs = 0x00#8 ∨ rs = 0x01#8) :
    (x &&& 0xF0#8 ||| (0x08#8 ||| rs) ||| 0x04#8) &&& 0xFB#8 = x &&& 0xF0#8 ||| (0x08#8 ||| rs) := by
  have nibbleKept : x &&& 0xF0#8 &&& 0xFB#8 = x &&& 0xF0#8 := BitVec.and_assoc x 0xF0#8 0xFB#8
  rw [BitVec.and_or_distrib_right, BitVec.and_or_distrib_right, nibbleKept]
  rcases hrs with rfl | rfl <;> simp

/-- The low half of a bus byte is its control bits. -/
theorem busByte_control (x c : Byte) : (x &&& 0xF0#8 ||| c) &&& 0x0F#8 = c &&& 0x0F#8 := by
  have nibbleGone : x &&& 0xF0#8 &&& 0x0F#8 = 0x00#8 := (BitVec.and_assoc x 0xF0#8 0x0F#8).trans BitVec.and_zero
  rw [BitVec.and_or_distrib_right, nibbleGone, BitVec.zero_or]

/-- A bus byte as a number: the upper nibble of `x` above the control bits. -/
theorem busByte_toNat (x : Byte) {c : Byte} (hc : c.toNat < 16) :
    (x &&& 0xF0#8 ||| c).toNat = x.toNat / 16 * 16 + c.toNat := by
  have nibble : (x &&& 0xF0#8).toNat = x.toNat / 16 * 2 ^ 4 := by
    revert x; decide +kernel
  rw [BitVec.toNat_or, nibble, ← Nat.shiftLeft_eq, ← Nat.shiftLeft_add_eq_or_of_lt hc, Nat.shiftLeft_eq]

/-- The upper nibble of a byte shifted left by four is its lower one. -/
theorem shiftLeft_four_div (b : Byte) : (b <<< 4).toNat / 16 = b.toNat % 16 := by
  rw [BitVec.toNat_shiftLeft, Nat.shiftLeft_eq]
  omega

theorem nibBytes_toList (b rs : Byte) :
    (nibBytes b rs).toList =
      [b &&& 0xF0#8 ||| (0x08#8 ||| rs) ||| 0x04#8, b &&& 0xF0#8 ||| (0x08#8 ||| rs),
       b <<< 4 &&& 0xF0#8 ||| (0x08#8 ||| rs) ||| 0x04#8, b <<< 4 &&& 0xF0#8 ||| (0x08#8 ||| rs)] := rfl

/-- The four bus bytes as numbers (R150). -/
theorem nibBytes_toNat (b : Byte) {rs : Nat} (hrs : rs ≤ 1) :
    (nibBytes b (BitVec.ofNat 8 rs)).toList.map BitVec.toNat = wireBytes b.toNat rs := by
  have controlIdle : (0x08#8 ||| BitVec.ofNat 8 rs).toNat = 8 + rs := by interval_cases rs <;> rfl
  have controlEnabled : (0x08#8 ||| BitVec.ofNat 8 rs ||| 0x04#8).toNat = 12 + rs := by interval_cases rs <;> rfl
  have idle (x : Byte) : (x &&& 0xF0#8 ||| (0x08#8 ||| BitVec.ofNat 8 rs)).toNat = x.toNat / 16 * 16 + (8 + rs) := by
    rw [busByte_toNat x (by omega), controlIdle]
  have enabled (x : Byte) :
      (x &&& 0xF0#8 ||| (0x08#8 ||| BitVec.ofNat 8 rs) ||| 0x04#8).toNat = x.toNat / 16 * 16 + (12 + rs) := by
    rw [BitVec.or_assoc, busByte_toNat x (by omega), controlEnabled]
  simp only [nibBytes_toList, List.map_cons, List.map_nil, idle, enabled, shiftLeft_four_div, wireBytes, Nat.add_assoc]

/-- Settles O33: EN is one bit of the control half, and the nibble fills the other half. -/
theorem busBytesFrameTheNibbles : Obligations.BusBytesFrameTheNibbles := by
  intro b rs hrs
  have enabled (x : Byte) : (x &&& 0xF0#8 ||| (0x08#8 ||| rs) ||| 0x04#8) &&& 0x0F#8 = 0x0C#8 ||| rs := by
    rw [BitVec.or_assoc, busByte_control]
    rcases hrs with rfl | rfl <;> rfl
  have idle (x : Byte) : (x &&& 0xF0#8 ||| (0x08#8 ||| rs)) &&& 0x0F#8 = 0x08#8 ||| rs := by
    rw [busByte_control]
    rcases hrs with rfl | rfl <;> rfl
  have nibble (x : Byte) : (x &&& 0xF0#8 ||| (0x08#8 ||| rs) ||| 0x04#8).toNat / 16 = x.toNat / 16 := by
    have hc : (0x08#8 ||| rs ||| 0x04#8).toNat < 16 := by rcases hrs with rfl | rfl <;> decide
    rw [BitVec.or_assoc, busByte_toNat x hc]
    omega
  exact ⟨(busByte_enCleared b hrs).symm, (busByte_enCleared (b <<< 4) hrs).symm, enabled b, enabled (b <<< 4), idle b,
    idle (b <<< 4), nibble b, (nibble (b <<< 4)).trans (shiftLeft_four_div b)⟩

/-! ## Transmissions -/

/-- The state from which the loop of R150 starts: TXB holds the four bytes of `b`, TXN is 0. -/
def State.framed (s : State) (b rs : Byte) : State := { s with txb := nibBytes b rs, txn := 0x00#8 }

theorem nibSend_framed (s : State) (b rs : Byte) :
    s.nibSend b rs = sendFrom (nibBytes b rs).toList 0 (s.framed b rs) := rfl

theorem writesOnly_framed (s : State) (b rs : Byte) : WritesOnly [.txb, .txn] s (s.framed b rs) :=
  ⟨fun r => by cases r <;> simp [State.regBytes, State.framed], rfl, rfl⟩

/-- Acknowledged writes as the events of the history (R56). -/
theorem ackedEvents_map_toNat (bs : List Byte) :
    ackedEvents (bs.map BitVec.toNat) = bs.map fun b => ⟨Config.lcdAddr, b, .ack⟩ := by
  simp [ackedEvents, Config.lcdAddr]

/-- Where every write is acknowledged the loop runs to its end. -/
theorem sendFrom_acked {bs : List Byte} {n : Nat} {s : State} (h : s.AcksBefore bs.length) :
    sendFrom bs n s = (State.afterAcks bs n s).endCommand .ok := by
  have run := sendFrom_append bs [] n s h
  rwa [List.append_nil] at run

/-- The first NACK ends the loop (R150, R172). -/
theorem sendFrom_firstNack {bs : List Byte} {j n : Nat} {s : State} (hj : j < bs.length) (ha : s.AcksBefore j)
    (hn : s.answerAt j = some .nack) :
    sendFrom bs n s = State.endCommand
      { (State.afterAcks (bs.take j) n s).dropAnswer with
        port := (State.afterAcks (bs.take j) n s).port ++ [⟨Config.lcdAddr, bs[j], .nack⟩] } .busFailure := by
  have hlen : (bs.take j).length = j := List.length_take_of_le hj.le
  have hsplit : bs = bs.take j ++ bs[j] :: bs.drop (j + 1) := by
    rw [List.getElem_cons_drop, List.take_append_drop]
  have hanswer : (State.afterAcks (bs.take j) n s).answerAt 0 = some .nack := by
    rw [answerAt_afterAcks, hlen, Nat.add_zero, hn]
  calc sendFrom bs n s
    _ = sendFrom (bs.take j ++ bs[j] :: bs.drop (j + 1)) n s := congrArg (sendFrom · n s) hsplit
    _ = sendFrom (bs[j] :: bs.drop (j + 1)) (n + (bs.take j).length) (State.afterAcks (bs.take j) n s) :=
      sendFrom_append _ _ _ _ (hlen.symm ▸ ha)
    _ = _ := sendFrom_nack hanswer

/-- TXN counts the acknowledged writes (R46, R150). -/
theorem afterAcks_txn (bs : List Byte) {s : State} (h : s.txn = 0x00#8) :
    (State.afterAcks bs 0 s).txn = BitVec.ofNat 8 bs.length := by
  rw [afterAcks_eq]
  cases bs with
  | nil => exact h
  | cons b bs => simp

/-- Acknowledged writes leave on the port the events of their bytes. -/
theorem afterAcks_port (bs : List Byte) (n : Nat) (s : State) :
    (State.afterAcks bs n s).port = s.port ++ ackedEvents (bs.map BitVec.toNat) := by
  rw [afterAcks_eq, ackedEvents_map_toNat]

@[simp] theorem afterAcks_busWait (bs : List Byte) (n : Nat) (s : State) :
    (State.afterAcks bs n s).busWait = s.busWait := by rw [afterAcks_eq]

@[simp] theorem afterAcks_err (bs : List Byte) (n : Nat) (s : State) :
    (State.afterAcks bs n s).err = s.err := by rw [afterAcks_eq]

@[simp] theorem nibSend_dcs (b rs : Byte) (s : State) : (s.nibSend b rs).dcs = s.dcs := by rw [nibSend_eq]

@[simp] theorem nibSend_txb (b rs : Byte) (s : State) : (s.nibSend b rs).txb = nibBytes b rs := by rw [nibSend_eq]

/-- TXB holds all four bytes, whatever the answers (R150). -/
theorem nibSend_txb_toNat (s : State) (b : Byte) {rs : Nat} (hrs : rs ≤ 1) :
    (s.nibSend b (BitVec.ofNat 8 rs)).txb.toList.map BitVec.toNat = wireBytes b.toNat rs := by
  rw [nibSend_txb, nibBytes_toNat b hrs]

/-- `nib_send` with every write acknowledged runs to its end (R150). -/
theorem nibSend_acked {s : State} (b rs : Byte) (ha : s.FourAcks) :
    s.nibSend b rs = (State.afterAcks (nibBytes b rs).toList 0 (s.framed b rs)).endCommand .ok :=
  (nibSend_framed s b rs).trans (sendFrom_acked ha)

/-- `nib_send` ends at the first NACK, after `j` acknowledged writes (R150, R172). -/
theorem nibSend_nacked {s : State} (b rs : Byte) {j : Nat} (hj : j < 4) (ha : s.AcksBefore j)
    (hn : s.answerAt j = some .nack) :
    s.nibSend b rs = State.endCommand
      { (State.afterAcks ((nibBytes b rs).toList.take j) 0 (s.framed b rs)).dropAnswer with
        port := (State.afterAcks ((nibBytes b rs).toList.take j) 0 (s.framed b rs)).port ++
          [⟨Config.lcdAddr, (nibBytes b rs)[j], .nack⟩] } .busFailure :=
  (nibSend_framed s b rs).trans (sendFrom_firstNack (by simpa using hj) ha hn)

/-- From `s` to `t` the byte of value `d` was sent with register select `rs`, every write was acknowledged, and the
command reported OK (R150). -/
def Transmitted (d rs : Nat) (s t : State) : Prop :=
  t.port = s.port ++ ackedEvents (wireBytes d rs) ∧ t.txb.toList.map BitVec.toNat = wireBytes d rs ∧ t.txn = 0x04#8 ∧
    t.result = 0x00#8 ∧ t.busWait = none

/-- `nib_send` with four ACKs ahead sends the whole byte. -/
theorem transmitted_nibSend {s : State} (b : Byte) {rs : Nat} (hrs : rs ≤ 1) (ha : s.FourAcks) (hw : s.busWait = none) :
    Transmitted b.toNat rs s (s.nibSend b (BitVec.ofNat 8 rs)) := by
  have htxb := nibSend_txb_toNat s b hrs
  rw [nibSend_acked _ _ ha] at htxb ⊢
  refine ⟨?port, htxb, afterAcks_txn _ rfl, rfl, (afterAcks_busWait _ _ _).trans hw⟩
  case port =>
    rw [endCommand_port, afterAcks_port, nibBytes_toNat b hrs]
    rfl

/-- `nib_send` with every write acknowledged leaves ERR alone. -/
theorem writesOnly_nibSend_acked {s : State} (b rs : Byte) (ha : s.FourAcks) :
    WritesOnly [.txb, .txn, .result] s (s.nibSend b rs) := by
  rw [nibSend_acked b rs ha]
  have acked : WritesOnly [.txb, .txn] s (State.afterAcks (nibBytes b rs).toList 0 (s.framed b rs)) :=
    (writesOnly_framed s b rs).trans ⟨keepsRegs_afterAcks _ _ _, afterAcks_hostSide _ _ _⟩
  exact acked.trans (writesOnly_endOk _)

/-- From `s` to `t` the byte of value `d` was sent with register select `rs` up to write `j`, which was NACKed, and the
command reported BUS_FAILURE (R150, R172). -/
def Stopped (d rs j : Nat) (s t : State) : Prop :=
  t.port = s.port ++ ackedEvents ((wireBytes d rs).take j) ++
      [⟨0x4E#8, BitVec.ofNat 8 ((wireBytes d rs).getD j 0), .nack⟩] ∧
    t.txb.toList.map BitVec.toNat = wireBytes d rs ∧ t.txn.toNat = j ∧ t.result = 0x01#8 ∧
    t.err = latched 0x01#8 s.err ∧ t.busWait = none

/-- `nib_send` whose write `j` is the first NACKed sends no more than the writes up to it. -/
theorem stopped_nibSend {s : State} (b : Byte) {rs j : Nat} (hrs : rs ≤ 1) (hj : j < 4) (ha : s.AcksBefore j)
    (hn : s.answerAt j = some .nack) (hw : s.busWait = none) :
    Stopped b.toNat rs j s (s.nibSend b (BitVec.ofNat 8 rs)) := by
  have hwire := nibBytes_toNat b hrs
  have hbyte : BitVec.ofNat 8 ((wireBytes b.toNat rs).getD j 0) = (nibBytes b (BitVec.ofNat 8 rs))[j] := by
    rw [← hwire, List.getD_eq_getElem _ _ (by simpa using hj)]
    simp
  have hcount : ((nibBytes b (BitVec.ofNat 8 rs)).toList.take j).length = j :=
    List.length_take_of_le (by simpa using hj.le)
  have htxb := nibSend_txb_toNat s b hrs
  rw [nibSend_nacked _ _ hj ha hn] at htxb ⊢
  refine ⟨?port, htxb, ?txn, rfl, ?err, ?busWait⟩
  case port =>
    rw [endCommand_port, afterAcks_port, List.map_take, hwire, hbyte]
    rfl
  case txn =>
    rw [endCommand_txn, dropAnswer_txn, afterAcks_txn _ rfl, hcount, BitVec.toNat_ofNat]
    omega
  case err =>
    rw [endCommand_err_latched, dropAnswer_err, afterAcks_err]
    rfl
  case busWait => exact (dropAnswer_busWait _).trans ((afterAcks_busWait _ _ _).trans hw)

/-! ## What each NIB command sends -/

/-- Settles O34: LCD_CMD and LCD_DATA are one transmission of TXDATA. -/
theorem lcdCommandsSendTxdata : Obligations.LcdCommandsSendTxdata := by
  intro i rs s hi ha hw
  simp only [List.mem_cons, Prod.mk.injEq, List.not_mem_nil, or_false] at hi
  have hrun : exec i s = .next (s.nibSend s.txdata (BitVec.ofNat 8 rs)) ∧ rs ≤ 1 := by
    rcases hi with ⟨rfl, rfl⟩ | ⟨rfl, rfl⟩ <;> exact ⟨rfl, by decide⟩
  obtain ⟨hrun, hrs⟩ := hrun
  obtain ⟨hport, htxb, htxn, hresult, hwait⟩ := transmitted_nibSend s.txdata hrs ha hw
  exact ⟨_, hrun, hport, htxb, htxn, hresult, hwait, writesOnly_nibSend_acked _ _ ha⟩

/-- A toggle resends DCS with its bit set or cleared (R153–R158). -/
theorem exec_toggle {i : Instr} {mask : Byte} {on : Bool} (h : (i, mask, on) ∈ toggleTable) (s : State) :
    exec i s = .next (s.resendDcs (toggledDcs mask on s.dcs)) := by
  simp only [toggleTable, List.mem_cons, Prod.mk.injEq, List.not_mem_nil, or_false] at h
  rcases h with ⟨rfl, rfl, rfl⟩ | ⟨rfl, rfl, rfl⟩ | ⟨rfl, rfl, rfl⟩ | ⟨rfl, rfl, rfl⟩ | ⟨rfl, rfl, rfl⟩ |
    ⟨rfl, rfl, rfl⟩ <;> rfl

theorem resendDcs_dcs (s : State) (d : Byte) : (s.resendDcs d).dcs = d := nibSend_dcs _ _ _

/-- DCS after a toggle, whatever the answers (R153, R160). -/
theorem toggle_dcs {i : Instr} {mask : Byte} {on : Bool} (h : (i, mask, on) ∈ toggleTable) {s t : State}
    (ht : exec i s = .next t) : t.dcs = toggledDcs mask on s.dcs := by
  cases (exec_toggle h s).symm.trans ht
  exact resendDcs_dcs s _

/-- Settles O35: a toggle is one transmission from the state with DCS written. -/
theorem togglesResendTheWholeDcs : Obligations.TogglesResendTheWholeDcs := by
  intro i mask on s hi ha hw
  set d := toggledDcs mask on s.dcs
  have hdcs : (s.resendDcs d).dcs = d := resendDcs_dcs s d
  obtain ⟨hport, htxb, htxn, hresult, hwait⟩ :=
    transmitted_nibSend (s := { s with dcs := d }) (0x08#8 ||| d) (Nat.zero_le 1) ha hw
  have written : WritesOnly [.dcs, .txb, .txn, .result] s (s.resendDcs d) :=
    (writesOnly_dcs s d).trans (writesOnly_nibSend_acked (0x08#8 ||| d) 0x00#8 ha)
  refine ⟨_, exec_toggle hi s, hdcs, ?_, ?_, htxn, hresult, hwait, written⟩
  · rw [hdcs]; exact hport
  · rw [hdcs]; exact htxb

/-- The set-DDRAM-address command of an accepted row and column (R159). -/
theorem cursorByte_toNat {row col : Byte} (hr : row.toNat ≤ 1) (hc : col.toNat ≤ 39) :
    (0x80#8 ||| ddramAddr row col).toNat = 128 + 64 * row.toNat + col.toNat := by
  have haddr : (ddramAddr row col).toNat = 64 * row.toNat + col.toNat := by
    rw [ddramAddr]
    split_ifs with h0
    · simp [h0]
    · have h1 : row.toNat ≠ 0 := fun h => h0 (BitVec.eq_of_toNat_eq h)
      rw [BitVec.toNat_add, BitVec.toNat_ofNat]
      omega
  have hor : 128 ||| (ddramAddr row col).toNat = 128 + (ddramAddr row col).toNat :=
    (Nat.two_pow_add_eq_or_of_lt (i := 7) (by omega) 1).symm
  rw [BitVec.toNat_or, BitVec.toNat_ofNat, hor, haddr, Nat.add_assoc]

/-- SET_CURSOR with accepted arguments is one transmission; the TXN it clears is cleared again by `nib_send` (R159). -/
theorem exec_setCursor_send {s : State} (hr : s.curRow.toNat ≤ 1) (hc : s.curCol.toNat ≤ 39) :
    exec .setCursor s = .next (s.nibSend (0x80#8 ||| ddramAddr s.curRow s.curCol) 0x00#8) :=
  execSetCursor_send hr hc

/-- Settles O36: the arguments pass, so the address is sent. -/
theorem setCursorSendsTheDdramAddress : Obligations.SetCursorSendsTheDdramAddress := by
  intro s hr hc ha hw byte
  obtain ⟨hport, htxb, htxn, hresult, hwait⟩ :=
    transmitted_nibSend (0x80#8 ||| ddramAddr s.curRow s.curCol) (Nat.zero_le 1) ha hw
  rw [cursorByte_toNat hr hc] at hport htxb
  exact ⟨_, exec_setCursor_send hr hc, hport, htxb, htxn, hresult, hwait, writesOnly_nibSend_acked _ _ ha⟩

/-- Settles O37: the command clears TXN and raises INVALID_ARGUMENT. -/
theorem setCursorRejectsOutOfRange : Obligations.SetCursorRejectsOutOfRange := by
  intro s hbad
  obtain ⟨regs, hostSide⟩ : WritesOnly [.txn, .result, .err] s
      (State.endCommand { s with txn := 0x00#8 } .invalidArgument) := (writesOnly_txn s 0x00#8).endCommand _
  exact ⟨_, execSetCursor_reject hbad, rfl, endCommand_err_latched _ _, rfl, regs, ⟨rfl, rfl, rfl, rfl⟩, hostSide⟩

/-- Every NIB command that passes its argument check is one transmission, before which a toggle writes DCS (R151–R159). -/
theorem exec_of_sends {i : Instr} {s : State} {b : Byte} {rs : Nat} (h : Sends i s b rs) :
    rs ≤ 1 ∧ ∃ d, exec i s = .next (State.nibSend { s with dcs := d } b (BitVec.ofNat 8 rs)) ∧
      ((∀ mask on, (i, mask, on) ∉ toggleTable) → d = s.dcs) := by
  have cursor {row : Byte} {base : Nat} (hrow : s.curRow = row) (hr : row.toNat ≤ 1) (hc : s.curCol.toNat ≤ 39)
      (hbase : 128 + 64 * row.toNat = base) :
      exec .setCursor s = .next (s.nibSend (BitVec.ofNat 8 (base + s.curCol.toNat)) 0x00#8) := by
    subst hrow hbase
    rw [exec_setCursor_send hr hc, ← cursorByte_toNat hr hc, BitVec.ofNat_toNat, BitVec.setWidth_eq]
  cases h with
  | lcdCmd => exact ⟨by decide, s.dcs, rfl, fun _ => rfl⟩
  | lcdData => exact ⟨by decide, s.dcs, rfl, fun _ => rfl⟩
  | toggle _ _ mask on hi =>
    exact ⟨by decide, toggledDcs mask on s.dcs, exec_toggle hi s, fun hno => absurd hi (hno mask on)⟩
  | row0 _ hrow hc => exact ⟨by decide, s.dcs, cursor hrow (by decide) hc rfl, fun _ => rfl⟩
  | row1 _ hrow hc => exact ⟨by decide, s.dcs, cursor hrow (by decide) hc rfl, fun _ => rfl⟩

/-- Settles O38: the transmission stops at the NACK, after DCS was written. -/
theorem firstNackStopsTheCommand : Obligations.FirstNackStopsTheCommand := by
  intro i s b rs j h hj ha hn hw
  obtain ⟨hrs, d, hrun, hkept⟩ := exec_of_sends h
  obtain ⟨hport, htxb, htxn, hresult, herr, hwait⟩ := stopped_nibSend (s := { s with dcs := d }) b hrs hj ha hn hw
  have written : WritesOnly [.dcs, .txb, .txn, .result, .err] s
      (State.nibSend { s with dcs := d } b (BitVec.ofNat 8 rs)) := (writesOnly_dcs s d).nibSend _ _
  exact ⟨_, hrun, hport, htxb, htxn, fun _ _ hi => toggle_dcs hi hrun, fun hno => (nibSend_dcs _ _ _).trans (hkept hno),
    hresult, herr, hwait, written⟩

/-! ## Sequences of toggles -/

/-- A toggle changes no bit of DCS outside its mask (R160). -/
theorem toggledDcs_getLsbD {mask : Byte} {k : Nat} (on : Bool) (dcs : Byte) (hk : k < 3) (hm : mask.getLsbD k = false) :
    (toggledDcs mask on dcs).getLsbD k = dcs.getLsbD k := by
  cases on
  · have hdefined : (0x07#8).getLsbD k = true := by interval_cases k <;> rfl
    simp only [toggledDcs, Bool.false_eq_true, if_false, BitVec.getLsbD_and, BitVec.getLsbD_xor, hdefined, hm,
      Bool.xor_false, Bool.and_true]
  · simp only [toggledDcs, if_true, BitVec.getLsbD_or, hm, Bool.or_false]

/-- Settles O40, by induction on the sequence. -/
theorem togglesKeepTheOtherBits : Obligations.TogglesKeepTheOtherBits := by
  intro l k s t hl hk hm hrun
  induction l generalizing s with
  | nil => cases hrun; rfl
  | cons x l ih =>
    obtain ⟨i, mask, on⟩ := x
    rw [List.forall_mem_cons] at hl hm
    obtain ⟨hi, hl⟩ := hl
    obtain ⟨hmask, hm⟩ := hm
    simp only [List.map_cons, execAll, exec_toggle hi s] at hrun
    calc t.dcs.getLsbD k
      _ = (s.resendDcs (toggledDcs mask on s.dcs)).dcs.getLsbD k := ih _ hl hm hrun
      _ = (toggledDcs mask on s.dcs).getLsbD k := by rw [resendDcs_dcs]
      _ = s.dcs.getLsbD k := toggledDcs_getLsbD on s.dcs hk hmask

end Sys2Proof.Machine

/-! SUPPORT and PROOFS for spec/60_exceptions.md: every instruction answers (R170, R180), the codes a command may end
with (R171), the first-failure latch over one instruction and over a sequence (R173, R178), and the idle block
(R185). -/

namespace Sys2Proof.Machine

/-! ## Every instruction answers -/

/-- A command ends with a result code or waits on the bus; each is a next state (R170, R198). -/
theorem command_answers {i : Instr} (hi : i.isCommand = true) (s : State) : ∃ t, exec i s = .next t := by
  cases i
  case hostWr | hostRd => cases hi
  case frmCheck =>
    simp only [exec, execFrmCheck]
    split_ifs <;> exact ⟨_, rfl⟩
  case calLoad =>
    simp only [exec, execCalLoad]
    split_ifs <;> exact ⟨_, rfl⟩
  case cmpTemp =>
    simp only [exec, execCmpTemp]
    split_ifs
    · exact ⟨_, rfl⟩
    · split <;> exact ⟨_, rfl⟩
  case cmpPres =>
    simp only [exec, execCmpPres]
    split_ifs
    · exact ⟨_, rfl⟩
    · exact ⟨_, rfl⟩
    · split <;> exact ⟨_, rfl⟩
  case setCursor =>
    simp only [exec, execSetCursor]
    split_ifs <;> exact ⟨_, rfl⟩
  all_goals exact ⟨_, rfl⟩

/-- A HostWrite to CMD is a command, and any other answers at once (R55, R60). -/
theorem hostWr_answers (a b : Byte) (s : State) : ∃ t, exec (.hostWr a b) s = .next t := by
  rcases execHostWr_cases a b s with ⟨-, he⟩ | ⟨-, he⟩ | ⟨_, _, -, -, he⟩ | ⟨-, -, he⟩
  · obtain ⟨t, ht⟩ := command_answers (isCommand_decodeCommand b) s
    exact ⟨t, he.trans ((performOpcode_eq b s).trans ht)⟩
  all_goals exact ⟨_, he⟩

/-- Settles O8: a command, a HostWrite and a HostRead each answer. -/
theorem everyInstructionAnswersANextState : Obligations.EveryInstructionAnswersANextState := by
  intro i s
  cases i
  case hostWr a b => exact hostWr_answers a b s
  case hostRd => exact ⟨_, rfl⟩
  all_goals exact command_answers rfl s

/-! ## The idle block -/

/-- Settles O7: there is no event to take and no answer to wait for. -/
theorem idleBlockHoldsItsState : Obligations.IdleBlockHoldsItsState := by
  intro s hpending hwait
  simp only [step, State.fetch, hpending, hwait]

/-! ## The codes a command may end with -/

/-- TIMEOUT is the only code of R171 that is never raised. -/
theorem byte_mem_producedCodes {c : ResultCode} (hc : c ≠ .timeout) : c.byte ∈ producedCodes := by
  cases c
  case timeout => exact absurd rfl hc
  all_goals decide

/-- The end of a command writes a produced code to RESULT, and to ERR that code or what ERR held (R173). -/
theorem codesProduced_endCommand {s : State} (err : s.err ∈ producedCodes) {c : ResultCode} (hc : c ≠ .timeout) :
    (s.endCommand c).CodesProduced := by
  have code := byte_mem_producedCodes hc
  refine ⟨code, ?_⟩
  rw [endCommand_err]
  split_ifs
  · exact code
  · exact err

/-- A transmission ends with OK or BUS_FAILURE, or has written no code (R150, R198). -/
theorem codesProduced_nibSend {s : State} (h : s.CodesProduced) (b rs : Byte) : (s.nibSend b rs).CodesProduced := by
  obtain ⟨result, err⟩ := h
  rcases nibSend_end_cases b rs s with ⟨u, c, hc, he, hu⟩ | ⟨-, herr, hresult⟩
  · rw [he]
    exact codesProduced_endCommand (hu ▸ err) hc
  · exact ⟨hresult ▸ result, herr ▸ err⟩

/-- RESULT and ERR are read-only to a store (R28, R29). -/
theorem storeByte_result_err (s : State) (r : Reg) (k : Nat) (b : Byte) :
    (s.storeByte r k b).result = s.result ∧ (s.storeByte r k b).err = s.err := by
  cases r <;> exact ⟨rfl, rfl⟩

theorem codesProduced_storeByte {s : State} (h : s.CodesProduced) (r : Reg) (k : Nat) (b : Byte) :
    (s.storeByte r k b).CodesProduced := by
  obtain ⟨result, err⟩ := storeByte_result_err s r k b
  rwa [State.CodesProduced, result, err]

theorem reset_codesProduced : State.reset.CodesProduced := by
  constructor <;> decide

theorem codesProduced_keptByOperations : KeptByOperations State.CodesProduced where
  pending _ _ h := h
  reads _ _ h := h
  powerOnReset _ := reset_codesProduced
  softReset _ := reset_codesProduced
  endCommand _ _ hc := fun ⟨_, err⟩ => codesProduced_endCommand err hc
  clearErr _ := fun ⟨result, _⟩ => ⟨result, byte_mem_producedCodes (c := .ok) (by decide)⟩
  storeByte _ r k b h := codesProduced_storeByte h r k b
  crcReported _ _ _ h := h
  frameFlags _ h := h
  frameDecoded _ _ h := h
  calRejected _ h := h
  calAccepted _ _ h := h
  b5Consumed _ h := h
  tempWritten _ _ _ h := h
  presWritten _ _ h := h
  txnCleared _ h := h
  dcsWritten _ _ _ h := h
  nibSend _ b rs h := codesProduced_nibSend h b rs

/-- Settles O52: RESULT and ERR are written by the end of a command, a reset and a clear alone. -/
theorem everyStepKeepsCodesProduced : Obligations.EveryStepKeepsCodesProduced :=
  fun _ _ hs h => codesProduced_keptByOperations.of_step h hs

/-! ## The first-failure latch of one instruction -/

/-- A command that completes ends with a code, which ERR latches (R93, R173). -/
theorem command_completed {i : Instr} {s t : State} (hi : i.isCommand = true) (hs : i ≠ .srst)
    (h : exec i s = .next t) (hw : t.busWait = none) :
    ∃ code : ResultCode, t.result = code.byte ∧ t.err = latched code.byte s.err := by
  rcases command_end_cases hi hs h with ⟨u, code, -, rfl, hu⟩ | ⟨waits, -, -⟩
  · exact ⟨code, rfl, hu ▸ endCommand_err_latched u code⟩
  · exact absurd hw waits

/-- Settles O12: the end of a command, the soft reset, and the access to ERR. -/
theorem firstFailureIsLatched : Obligations.FirstFailureIsLatched := by
  refine ⟨fun _ _ _ => command_completed, fun s t h => ?_, fun _ _ => rfl⟩
  cases h
  exact ⟨rfl, rfl⟩

/-- A failure once latched is not overwritten (R178). -/
theorem latched_of_ne_zero {err : Byte} (h : err ≠ 0x00#8) (c : Byte) : latched c err = err :=
  if_neg fun ⟨_, h0⟩ => h h0

/-- From a clear ERR the latch takes any code: a failure, or the 0x00 that ERR held. -/
theorem latched_zero (c : Byte) : latched c 0x00#8 = c := by
  by_cases hc : c = 0x00#8
  · subst hc
    rfl
  · exact if_pos ⟨hc, rfl⟩

/-- An instruction performs a command, is a HostRead, or is a HostWrite outside CMD (R51, R60). -/
theorem command_or_access (i : Instr) :
    i.performed.isCommand = true ∨ (∃ a, i = .hostRd a) ∨ ∃ a b, a ≠ 0x02#8 ∧ i = .hostWr a b := by
  cases i
  case hostRd a => exact .inr (.inl ⟨a, rfl⟩)
  case hostWr a b =>
    by_cases ha : a = 0x02#8
    · subst ha
      exact .inl (isCommand_decodeCommand b)
    · exact .inr (.inr ⟨a, b, ha, rfl⟩)
  all_goals exact .inl rfl

/-- SRST clears ERR, however it is issued. -/
theorem performed_ne_srst {i : Instr} (hn : i.clearsErr = false) : i.performed ≠ .srst := by
  intro hp
  simp [Instr.clearsErr, hp] at hn

/-- A HostWrite that neither performs a command nor clears ERR leaves ERR alone (R47, R55). -/
theorem hostWr_err {a b : Byte} {s t : State} (ha : a ≠ 0x02#8) (hn : (Instr.hostWr a b).clearsErr = false)
    (h : execHostWr a b s = .next t) : t.err = s.err := by
  have hclear : a ≠ 0x04#8 := by simpa [Instr.clearsErr, Instr.performed, ha] using hn
  rcases execHostWr_cases a b s with ⟨ha', -⟩ | ⟨ha', -⟩ | ⟨r, k, -, -, he⟩ | ⟨-, -, he⟩
  · exact absurd ha' ha
  · exact absurd ha' hclear
  all_goals
    rw [he] at h
    cases h
  · exact (storeByte_result_err s r.reg k b).2
  · rfl

/-- Without a clear, ERR stays or latches the code in RESULT (R173). -/
theorem exec_err_cases {i : Instr} {s t : State} (hn : i.clearsErr = false) (h : exec i s = .next t) :
    t.err = s.err ∨ t.err = latched t.result s.err := by
  rcases command_or_access i with hi | ⟨a, rfl⟩ | ⟨a, b, ha, rfl⟩
  · rcases command_end_cases hi (performed_ne_srst hn) ((exec_performed i s).trans h) with
      ⟨u, code, -, rfl, hu⟩ | ⟨-, kept, -⟩
    · exact .inr (hu ▸ endCommand_err_latched u code)
    · exact .inl kept
  · cases h
    exact .inl rfl
  · exact .inl (hostWr_err ha hn h)

theorem exec_keeps_failure {i : Instr} {s t : State} (hn : i.clearsErr = false) (h : exec i s = .next t)
    (hs : s.err ≠ 0x00#8) : t.err = s.err := by
  rcases exec_err_cases hn h with kept | latch
  · exact kept
  · exact latch.trans (latched_of_ne_zero hs _)

/-- ERR becomes nonzero only as the code in RESULT. -/
theorem exec_latches_result {i : Instr} {s t : State} (hn : i.clearsErr = false) (h : exec i s = .next t)
    (hs : s.err = 0x00#8) (ht : t.err ≠ 0x00#8) : t.result = t.err := by
  rcases exec_err_cases hn h with kept | latch
  · exact absurd (kept.trans hs) ht
  · rw [hs, latched_zero] at latch
    exact latch.symm

/-! ## The first-failure latch of a sequence -/

/-- A run starts with its first instruction. -/
theorem execAll_cons_some {i : Instr} {l : List Instr} {s t : State} (h : execAll (i :: l) s = some t) :
    ∃ n, exec i s = .next n ∧ execAll l n = some t := by
  obtain ⟨n, hn⟩ := everyInstructionAnswersANextState i s
  exact ⟨n, hn, (execAll_cons hn).symm.trans h⟩

theorem execAll_keeps_failure {l : List Instr} {s t : State} (hl : ∀ i ∈ l, i.clearsErr = false)
    (hrun : execAll l s = some t) (hs : s.err ≠ 0x00#8) : t.err = s.err := by
  induction l generalizing s with
  | nil =>
    cases hrun
    rfl
  | cons i l ih =>
    obtain ⟨hi, hl⟩ := List.forall_mem_cons.mp hl
    obtain ⟨n, hn, hrun⟩ := execAll_cons_some hrun
    have kept : n.err = s.err := exec_keeps_failure hi hn hs
    exact (ih hl hrun (kept ▸ hs)).trans kept

/-- The run `l` from `s` to `t` holds an instruction that found ERR at 0x00 and left in RESULT and ERR the ERR of `t`
(R173). -/
def LatchesFailureOf (l : List Instr) (s t : State) : Prop :=
  ∃ a i b m n, l = a ++ i :: b ∧ execAll a s = some m ∧ m.err = 0x00#8 ∧ exec i m = .next n ∧ n.result = t.err ∧
    n.err = t.err

/-- An instruction before the run that leads to its first state. -/
theorem LatchesFailureOf.cons {l : List Instr} {i : Instr} {s n t : State} (h : LatchesFailureOf l n t)
    (hi : exec i s = .next n) : LatchesFailureOf (i :: l) s t := by
  obtain ⟨a, j, b, m, u, rfl, ha, hm, hj, hresult, herr⟩ := h
  exact ⟨i :: a, j, b, m, u, rfl, (execAll_cons hi).trans ha, hm, hj, hresult, herr⟩

/-- A failure latched by a run is latched by its first instruction, which nothing then overwrites, or by the rest. -/
theorem latchesFailureOf_of_err {l : List Instr} {s t : State} (hl : ∀ i ∈ l, i.clearsErr = false)
    (hrun : execAll l s = some t) (hs : s.err = 0x00#8) (ht : t.err ≠ 0x00#8) : LatchesFailureOf l s t := by
  induction l generalizing s with
  | nil =>
    cases hrun
    exact absurd hs ht
  | cons i l ih =>
    obtain ⟨hi, hl⟩ := List.forall_mem_cons.mp hl
    obtain ⟨n, hn, hrun⟩ := execAll_cons_some hrun
    by_cases hclear : n.err = 0x00#8
    · exact (ih hl hrun hclear).cons hn
    · have kept : t.err = n.err := execAll_keeps_failure hl hrun hclear
      exact ⟨[], i, l, s, n, rfl, rfl, hs, hn, (exec_latches_result hi hn hs hclear).trans kept.symm, kept.symm⟩

/-- A command that completes with a failure leaves ERR nonzero, at its own code where ERR was 0x00. -/
theorem command_failure_latched {i : Instr} {s t : State} (hi : i.performed.isCommand = true)
    (hn : i.clearsErr = false) (h : exec i s = .next t) (hw : t.busWait = none) (hr : t.result ≠ 0x00#8) :
    t.err ≠ 0x00#8 ∧ (s.err = 0x00#8 → t.err = t.result) := by
  obtain ⟨code, result, err⟩ := command_completed hi (performed_ne_srst hn) ((exec_performed i s).trans h) hw
  rw [← result] at err
  by_cases hs : s.err = 0x00#8
  · rw [hs, latched_zero] at err
    exact ⟨err ▸ hr, fun _ => err⟩
  · rw [latched_of_ne_zero hs] at err
    exact ⟨err ▸ hs, fun h0 => absurd h0 hs⟩

/-- Settles O13: what an instruction latches, the rest of the sequence keeps. -/
theorem errKeepsTheFirstFailureOfASequence : Obligations.ErrKeepsTheFirstFailureOfASequence := by
  refine fun l s t hl hrun => ⟨execAll_keeps_failure hl hrun, latchesFailureOf_of_err hl hrun, ?_⟩
  rintro a i b m n rfl ha hi hcommand hw hr
  obtain ⟨-, hl⟩ := List.forall_mem_append.mp hl
  obtain ⟨hclears, hb⟩ := List.forall_mem_cons.mp hl
  have rest : execAll b n = some t := (execAll_cons hi).symm.trans ((execAll_append ha).symm.trans hrun)
  obtain ⟨latch, code⟩ := command_failure_latched hcommand hclears hi hw hr
  rw [execAll_keeps_failure hb rest latch]
  exact ⟨latch, code⟩

end Sys2Proof.Machine

/-! SUPPORT and PROOFS for spec/70_reset_and_hazards.md: the reset values (R190), the invariants that hold at reset, the
power-on reset (R191), and the run in which a bus write is never answered (R198). -/

namespace Sys2Proof.Machine

/-! ## The reset state -/

/-- CMD reads 0x00 in every state (R27). -/
theorem hostRead_cmd (s : State) : s.hostRead 0x02#8 = 0x00#8 := hostRead_oneByte .cmd .wo (by decide) rfl

/-- Settles O14: what CMD reads is no field of the state; every other value is one, or a bit of one, and stands in the
definition of the reset state. -/
theorem resetGivesTheListedValues : Obligations.ResetGivesTheListedValues := by
  refine ⟨rfl, rfl, rfl, rfl, hostRead_cmd State.reset, ?fields⟩
  case fields => decide

/-- Settles O54: reserved bits, codes, and CAL_VALID, which is 0. -/
theorem resetMeetsTheOtherInvariants : Obligations.ResetMeetsTheOtherInvariants :=
  ⟨reset_reservedClear, reset_codesProduced, calibrationUsable_of_not_calValid reset_calValid⟩

/-! ## The power-on reset -/

/-- The power-on reset gives every register its reset value (R190, R191). -/
theorem keepsRegs_powerOnReset (s : State) : KeepsRegs [] State.reset s.powerOnReset := by
  intro r _
  cases r <;> rfl

/-- A power-on reset that comes next is taken in every state, a waiting one too (R191). -/
theorem step_powerOnReset {s : State} {rest : List HostEvent} (h : s.pending = .powerOnReset :: rest) :
    step s = .next (State.powerOnReset { s with pending := rest }) := by
  simp only [step, State.fetch, h]

/-- Settles O15: the step is the power-on reset of the state with the event taken. -/
theorem powerOnResetRestoresEveryRegister : Obligations.PowerOnResetRestoresEveryRegister :=
  fun _ _ h => ⟨_, step_powerOnReset h, keepsRegs_powerOnReset _, rfl, rfl, rfl, rfl, rfl, rfl⟩

/-! ## The stuck state -/

/-- A block that waits on the bus takes no host access (R198). -/
theorem stepAccess_waiting {s : State} {b : Byte} (h : s.busWait = some b) (w : HostWord) :
    stepAccess w s = .fault .busNeverAnswered := by
  simp only [stepAccess, h]

/-- A stuck state has no successor, whatever else is still to come (R198). -/
theorem step_stuck {t : State} (h : t.Stuck) : step t = .fault .busNeverAnswered := by
  obtain ⟨waits, noReset⟩ := h
  obtain ⟨b, hb⟩ := Option.ne_none_iff_exists'.mp waits
  match hp : t.pending with
  | [] => simp only [step, State.fetch, hp, hb]
  | .access w :: rest =>
    simp only [step, State.fetch, hp]
    exact stepAccess_waiting (s := { t with pending := rest }) hb w
  | .powerOnReset :: _ => exact absurd (congrArg List.head? hp) noReset

/-! ## The write that is never answered -/

/-- The loop of R150 after `j` acknowledged writes. -/
theorem sendFrom_afterAcks {bs : List Byte} {j : Nat} (n : Nat) {s : State} (hj : j ≤ bs.length)
    (ha : s.AcksBefore j) :
    sendFrom bs n s = sendFrom (bs.drop j) (n + j) (State.afterAcks (bs.take j) n s) := by
  have hlen : (bs.take j).length = j := List.length_take_of_le hj
  have run := sendFrom_append (bs.take j) (bs.drop j) n s (hlen.symm ▸ ha)
  rwa [List.take_append_drop, hlen] at run

/-- The first unanswered write leaves the loop waiting, with no end of the command (R198). -/
theorem sendFrom_firstUnanswered {bs : List Byte} {j : Nat} (n : Nat) {s : State} (hj : j < bs.length)
    (ha : s.AcksBefore j) (hn : s.answerAt j = none) :
    sendFrom bs n s = { (State.afterAcks (bs.take j) n s).dropAnswer with busWait := some bs[j] } := by
  have hanswer : (State.afterAcks (bs.take j) n s).answerAt 0 = none := by
    rw [answerAt_afterAcks, List.length_take_of_le hj.le, Nat.add_zero, hn]
  rw [sendFrom_afterAcks n hj.le ha, List.drop_eq_getElem_cons hj, sendFrom_none hanswer]

/-- From `s` to `t` the byte of value `d` was sent with register select `rs` up to write `j`, for whose answer the block
waits: RESULT and ERR are as they were, and the events still to come too (R198). -/
def Unanswered (d rs j : Nat) (s t : State) : Prop :=
  t.busWait ≠ none ∧ t.port = s.port ++ ackedEvents ((wireBytes d rs).take j) ∧ t.txn.toNat = j ∧
    t.result = s.result ∧ t.err = s.err ∧ t.pending = s.pending

/-- `nib_send` whose write `j` is the first without an answer waits there. -/
theorem unanswered_nibSend {s : State} (b : Byte) {rs j : Nat} (hrs : rs ≤ 1) (hj : j < 4) (ha : s.AcksBefore j)
    (hn : s.answerAt j = none) : Unanswered b.toNat rs j s (s.nibSend b (BitVec.ofNat 8 rs)) := by
  have hlen : j < (nibBytes b (BitVec.ofNat 8 rs)).toList.length := by simpa using hj
  rw [nibSend_framed, sendFrom_firstUnanswered (s := s.framed b (BitVec.ofNat 8 rs)) 0 hlen ha hn]
  refine ⟨Option.some_ne_none _, ?port, ?txn, ?result, ?err, ?pending⟩
  case port =>
    rw [dropAnswer_port, afterAcks_port, List.map_take, nibBytes_toNat b hrs]
    rfl
  case txn =>
    rw [dropAnswer_txn, afterAcks_txn _ rfl, List.length_take_of_le hlen.le, BitVec.toNat_ofNat]
    omega
  case result => rw [dropAnswer_result, afterAcks_eq]; rfl
  case err => rw [dropAnswer_err, afterAcks_err]; rfl
  case pending => rw [dropAnswer_pending, afterAcks_eq]; rfl

/-- Settles O39: the transmission waits at the unanswered write, and what waits with no reset to come is stuck. -/
theorem unansweredWriteIsAStuckState : Obligations.UnansweredWriteIsAStuckState := by
  refine ⟨fun i s b rs j h hj ha hn noReset => ?_, fun _ => step_stuck⟩
  obtain ⟨hrs, d, hrun, -⟩ := exec_of_sends h
  obtain ⟨waits, hport, htxn, hresult, herr, hpending⟩ :=
    unanswered_nibSend (s := { s with dcs := d }) b hrs hj ha hn
  have stuck : (State.nibSend { s with dcs := d } b (BitVec.ofNat 8 rs)).Stuck :=
    ⟨waits, fun comes => noReset ((congrArg List.head? hpending).symm.trans comes)⟩
  exact ⟨_, hrun, stuck, hport, htxn, hresult, herr, step_stuck stuck⟩

end Sys2Proof.Machine
